-- ==== Sys2Proof/Word.lean ====
section
/-! DEFINITION. The widths the spec fixes: 8-bit plane and LED buffer bytes, 16-bit operand patterns, 24-bit colour words, 32-bit
command words and bus data (00_scope.md R9). Bit 0 is the least significant (R7). -/

namespace Sys2Proof

/-- A plane byte or an LED buffer byte. -/
abbrev Byte := BitVec 8

/-- The pattern of an operand register ARGn (10_state.md R18). -/
abbrev Half := BitVec 16

/-- A colour word, RRGGBB: red in bits 23..16, green in 15..8, blue in 7..0 (10_state.md R14). -/
abbrev Color := BitVec 24

/-- A command word, or the data of a 32-bit bus access. -/
abbrev Word := BitVec 32

end Sys2Proof
end

