-- ==== Sys2Proof/Syntax.lean ====
section
/-! DEFINITION. The ten commands of 30_encoding.md R45, one constructor per row of the opcode table. Numeric operands are in ARG0 to
ARG5 (R44) and are no part of the command; only TGT, SIZE and IMM8 are. -/

namespace Sys2Proof

/-- The plane a drawing command reads and writes, field TGT (30_encoding.md R43); TGT = 3 is no target and does not decode. -/
inductive Target where
  | fb
  | andm
  | orm
  deriving DecidableEq, Repr, Inhabited

/-- A command (30_encoding.md R45). `size` is zext_3 of SIZE and `c`, `ch` are zext_8 of IMM8 (R44). -/
inductive Instr where
  | nop
  | fill (t : Target)
  | erase (t : Target)
  | copy (t : Target)
  | glyph (t : Target) (size : Nat) (c : Nat)
  | composite
  | maskinit
  | maskchar (ch : Nat)
  | color12
  | encode
  deriving DecidableEq, Repr, Inhabited

end Sys2Proof
end

