-- ==== Sys2Proof/WellFormed.lean ====
section
/-! DEFINITION. When a command fits its word: SIZE is a 3-bit number and IMM8 an 8-bit number (30_encoding.md R42). SIZE 0, 5, 6 and 7 are
legal (R46). A term outside these bounds is no word's command, and has a meaning all the same (log 16, DESIGN CHOICE). -/

namespace Sys2Proof

/-- The operands of `i` fit the fields of the command word (30_encoding.md R42, R46). -/
def Instr.wellFormed : Instr → Bool
  | .nop => true
  | .fill _ => true
  | .erase _ => true
  | .copy _ => true
  | .glyph _ size c => decide (size < 8) && decide (c < 256)
  | .composite => true
  | .maskinit => true
  | .maskchar ch => decide (ch < 256)
  | .color12 => true
  | .encode => true

end Sys2Proof
end

