-- ==== Sys2Proof/Decode.lean ====
section
/-! DEFINITION. The command word of 30_encoding.md R42, its decoder (R45 to R47, in the order of checks of 40_command_cycle.md R52), total
on all 2^32 words and rejecting by name, and after it the encoder, from the same tables. -/

namespace Sys2Proof

/-- Why a word is no legal command, in the order R52 checks: each ends the command with ERR_ILLEGAL. -/
inductive DecodeError where
  /-- OPC is 0x0A to 0xFF (R47). -/
  | reservedOpcode
  /-- RSV0, RSV1 or RSV2 is not 0 (R46). -/
  | reservedField
  /-- TGT is outside the command's set (R43, R46). -/
  | illegalTarget
  /-- SIZE is outside the command's set (R46). -/
  | illegalSize
  /-- IMM8 is outside the command's set (R46). -/
  | illegalImm
  deriving DecidableEq, Repr

/-- The fields of a command word (30_encoding.md R42). -/
structure Fields where
  rsv2 : BitVec 8
  imm8 : BitVec 8
  rsv1 : BitVec 1
  size : BitVec 3
  rsv0 : BitVec 2
  tgt  : BitVec 2
  opc  : BitVec 8
  deriving DecidableEq, Repr

/-- The fields of `w`, at the bit positions of R42. -/
def fieldsOf (w : Word) : Fields where
  rsv2 := w.extractLsb' 24 8
  imm8 := w.extractLsb' 16 8
  rsv1 := w.extractLsb' 15 1
  size := w.extractLsb' 12 3
  rsv0 := w.extractLsb' 10 2
  tgt  := w.extractLsb' 8 2
  opc  := w.extractLsb' 0 8

/-- R42: `w = {RSV2, IMM8, RSV1, SIZE, RSV0, TGT, OPC}`. -/
def wordOf (f : Fields) : Word :=
  f.rsv2 ++ f.imm8 ++ f.rsv1 ++ f.size ++ f.rsv0 ++ f.tgt ++ f.opc

/-- R43: 0 = FB, 1 = ANDM, 2 = ORM, 3 = reserved. -/
def targetOf (tgt : BitVec 2) : Option Target :=
  match tgt.toNat with
  | 0 => some .fb
  | 1 => some .andm
  | 2 => some .orm
  | _ => none

/-- The operands of a command that uses none of TGT, SIZE, IMM8 (R46). -/
def decodeBare (f : Fields) (i : Instr) : Except DecodeError Instr :=
  if f.tgt ≠ 0 then .error .illegalTarget
  else if f.size ≠ 0 then .error .illegalSize
  else if f.imm8 ≠ 0 then .error .illegalImm
  else .ok i

/-- The operands of FILL, ERASE and COPY: TGT in 0, 1, 2 and the rest 0 (R46). -/
def decodeDraw (f : Fields) (i : Target → Instr) : Except DecodeError Instr :=
  match targetOf f.tgt with
  | none => .error .illegalTarget
  | some t =>
    if f.size ≠ 0 then .error .illegalSize
    else if f.imm8 ≠ 0 then .error .illegalImm
    else .ok (i t)

/-- The operands of GLYPH: TGT in 0, 1, 2, any SIZE, any IMM8 (R46). -/
def decodeGlyph (f : Fields) : Except DecodeError Instr :=
  match targetOf f.tgt with
  | none => .error .illegalTarget
  | some t => .ok (.glyph t f.size.toNat f.imm8.toNat)

/-- The operand of MASKCHAR: any IMM8, TGT and SIZE 0 (R46). -/
def decodeMaskchar (f : Fields) : Except DecodeError Instr :=
  if f.tgt ≠ 0 then .error .illegalTarget
  else if f.size ≠ 0 then .error .illegalSize
  else .ok (.maskchar f.imm8.toNat)

/-- The opcode map of R45; an opcode it does not assign is reserved (R47). -/
def decodeOpcode (f : Fields) : Except DecodeError Instr :=
  match f.opc.toNat with
  | 0x00 => decodeBare f .nop
  | 0x01 => decodeDraw f .fill
  | 0x02 => decodeDraw f .erase
  | 0x03 => decodeDraw f .copy
  | 0x04 => decodeGlyph f
  | 0x05 => decodeBare f .composite
  | 0x06 => decodeBare f .maskinit
  | 0x07 => decodeMaskchar f
  | 0x08 => decodeBare f .color12
  | 0x09 => decodeBare f .encode
  | _ => .error .reservedOpcode

/-- Decoding a command word, with the checks in the order of 40_command_cycle.md R52: OPC, then the reserved fields, then TGT, SIZE and
IMM8. -/
def decode (w : Word) : Except DecodeError Instr :=
  let f := fieldsOf w
  if 9 < f.opc.toNat then .error .reservedOpcode
  else if f.rsv0 ≠ 0 ∨ f.rsv1 ≠ 0 ∨ f.rsv2 ≠ 0 then .error .reservedField
  else decodeOpcode f

/-- The instruction the decoder reads from a row of the opcode table (R48: every command is one 32-bit word, so a longer one is none). -/
def decodeTableWord (nbits w : Nat) : Option Instr :=
  if 2 ^ 32 ≤ w % 2 ^ nbits then none
  else (decode (BitVec.ofNat 32 (w % 2 ^ nbits))).toOption

/-- The number of the target (R43). -/
def Target.code : Target → BitVec 2
  | .fb => 0
  | .andm => 1
  | .orm => 2

/-- The opcode of a command (R45). -/
def Instr.opcode : Instr → BitVec 8
  | .nop => 0x00
  | .fill _ => 0x01
  | .erase _ => 0x02
  | .copy _ => 0x03
  | .glyph _ _ _ => 0x04
  | .composite => 0x05
  | .maskinit => 0x06
  | .maskchar _ => 0x07
  | .color12 => 0x08
  | .encode => 0x09

/-- TGT of a command's word (R46). -/
def Instr.tgt : Instr → BitVec 2
  | .fill t => t.code
  | .erase t => t.code
  | .copy t => t.code
  | .glyph t _ _ => t.code
  | .nop => 0
  | .composite => 0
  | .maskinit => 0
  | .maskchar _ => 0
  | .color12 => 0
  | .encode => 0

/-- SIZE of a command's word (R46). -/
def Instr.sizeField : Instr → BitVec 3
  | .glyph _ size _ => BitVec.ofNat 3 size
  | .nop => 0
  | .fill _ => 0
  | .erase _ => 0
  | .copy _ => 0
  | .composite => 0
  | .maskinit => 0
  | .maskchar _ => 0
  | .color12 => 0
  | .encode => 0

/-- IMM8 of a command's word (R46). -/
def Instr.imm8 : Instr → BitVec 8
  | .glyph _ _ c => BitVec.ofNat 8 c
  | .maskchar ch => BitVec.ofNat 8 ch
  | .nop => 0
  | .fill _ => 0
  | .erase _ => 0
  | .copy _ => 0
  | .composite => 0
  | .maskinit => 0
  | .color12 => 0
  | .encode => 0

/-- The word of a well-formed command (30_encoding.md R42, R46). -/
def encode (i : Instr) : Word :=
  wordOf
    { rsv2 := 0, imm8 := i.imm8, rsv1 := 0, size := i.sizeField, rsv0 := 0, tgt := i.tgt, opc := i.opcode }

end Sys2Proof
end

