-- ==== Sys2Proof/Config.lean ====
section
/-! DEFINITION. The implementation parameters of 00_scope.md R6: where R6 gives a range, a type that admits exactly that range; where it gives
none (SPI_HZ, BASE), the natural numbers, which is the model's choice (log 21, DESIGN CHOICE). And the two bodiless constants
of the model: the parameters of the machine that State.reset stands for, and the values that unspecified bytes take at each reset (70_reset_and_hazards.md R107). Every accessor is in Machine/Ops.lean. -/

namespace Sys2Proof

/-- `GLYPH_LO`: the lowest printable character code, 32 or 33 (00_scope.md R6, D17). -/
inductive GlyphLo where
  | code32
  | code33
  deriving DecidableEq, Repr, Inhabited

/-- `BUS_ERROR_RESPONSE`: how the host's bus master reports an error response to its own software (60_exceptions.md R93, D37).
`endsProgram`: the host program ends there, the reading of D37 and of 93_implementation_defined.md I9.
`goesOn`: the host sees the error response and goes on to its next access. -/
inductive BusErrorResponse where
  | endsProgram
  | goesOn
  deriving DecidableEq, Repr, Inhabited

/-- The bytes of one stripe-row of one glyph of the font ROM: `bytes` holds FONT(size, glyph, row, 0), FONT(size, glyph, row, 1), … -/
structure GlyphRow where
  size  : Nat
  glyph : Nat
  row   : Nat
  bytes : List Byte
  deriving DecidableEq, Repr, Inhabited

/-- The parameters of 00_scope.md R6. -/
structure Config where
  /-- `MAX_LEDS` − 1, so that 1 ≤ `MAX_LEDS` ≤ 2047 holds of every value. -/
  ledCapacity : Fin 2047
  /-- `GW(1)` − 1, so that 1 ≤ `GW(1)` ≤ 128 holds of every value; `gw2`, `gw3`, `gw4` likewise. -/
  gw1 : Fin 128
  gw2 : Fin 128
  gw3 : Fin 128
  gw4 : Fin 128
  /-- `GLYPH_LO`. -/
  glyphLo : GlyphLo
  /-- `FONT`, as the list of its stripe-rows; what the list leaves out reads as 0x00 (log 8, DESIGN CHOICE). -/
  font : List GlyphRow
  /-- `MASK_DEFAULT_AND`; what the list leaves out reads as 0xFF, so the empty list is the plain variant (log 8, DESIGN CHOICE). -/
  maskAnd : List Byte
  /-- `MASK_DEFAULT_OR`; what the list leaves out reads as 0x00, so the empty list is the plain variant (log 8, DESIGN CHOICE). -/
  maskOr : List Byte
  /-- `SPI_HZ`: the bit clock of the LED byte stream outside the engine. R6 gives no type or range; the model takes a whole number of Hz, and
  admits 0 (log 21, DESIGN CHOICE). -/
  spiHz : Nat
  /-- `BASE`: the platform address of offset 0. R6 gives no type or range; the model takes any whole number (log 21, DESIGN CHOICE). -/
  base : Nat
  /-- `BUS_ERROR_RESPONSE`. -/
  busErrorResponse : BusErrorResponse
  deriving DecidableEq, Repr, Inhabited

/-- The parameters of the machine in its reset state: no body, so that nothing can be proved about the values (log 1, DESIGN CHOICE). -/
opaque Config.chip : Config

/-- The values the unspecified bytes take at reset number n (R107): no body, one draw for every reset (log 2, DESIGN CHOICE). -/
opaque Config.resetDraw : Nat → List Host.Cell

end Sys2Proof
end

