-- ==== Sys2Proof/Machine/State.lean ====
section
/-! DEFINITION. The state of the engine (10_state.md), as plain data, with the accesses the world outside has still to make; the fault
and refusal reasons; and the state after reset (70_reset_and_hazards.md R106). -/

namespace Sys2Proof.Machine

/-- The four planes (10_state.md R10). -/
inductive Plane where
  | fb
  | andm
  | orm
  | out
  deriving DecidableEq, Repr, Inhabited

/-- The result codes of a command (60_exceptions.md R94); codes 5, 6 and 7 are never produced. -/
inductive ResultCode where
  | ok
  | rejected
  | errIllegal
  | errNocolor
  | errRange
  deriving DecidableEq, Repr, Inhabited

/-- The width n of a host bus access: 1, 2 or 4 bytes (20_memory.md R28). -/
inductive Width where
  | b1
  | b2
  | b4
  deriving DecidableEq, Repr, Inhabited

/-- What the world outside does to the engine: `MemRead(off, n)` and `MemWrite(off, n, v)` (20_memory.md R28; of `v` the low 8n bits
count; log 12, DEDUCED), and a pulse of the reset input (70_reset_and_hazards.md R106). -/
inductive HostOp where
  | read (off : BitVec 16) (w : Width)
  | write (off : BitVec 16) (w : Width) (v : Word)
  | reset
  deriving DecidableEq, Repr, Inhabited

/-- What the bus answered to the last access (log 4, DESIGN CHOICE): nothing yet, a write's completion, a read's value (zero-extended to 32 bits), or an
error response at an offset (60_exceptions.md R93). -/
inductive BusResponse where
  | quiet
  | written
  | data (v : Word)
  | error (off : BitVec 16)
  deriving DecidableEq, Repr, Inhabited

/-- Stored bytes as (offset, byte) cells, in the canonical form `Memory.wf` of Machine/Ops.lean. -/
abbrev Memory := List Host.Cell

/-- The state of the engine. -/
structure State where
  /-- The implementation parameters (00_scope.md R6); no step changes them (log 1, DESIGN CHOICE). -/
  cfg : Config
  /-- MODEL's own: the values the unspecified bytes took at the last reset (R107, log 2, DESIGN CHOICE). -/
  draws : List Host.Cell
  /-- MODEL's own: the number of resets, so that every reset draws anew (log 2, DESIGN CHOICE). -/
  resets : Nat
  /-- The planes, the colour RAM and the LED buffer (R10, R14, R15), by their offsets in the window of 20_memory.md R27 (log 6, DESIGN CHOICE). -/
  mem : Memory
  /-- ARG0 to ARG5 (R18). -/
  args : Vector Half 6
  /-- CMD (R19). -/
  cmd : Word
  /-- STATUS.RESULT (R20). -/
  result : ResultCode
  /-- STATUS.ERR (R20). -/
  err : Bool
  /-- Bits [15:0] of LEDLEN; bits [31:16] read 0 (R21; log 17, DEDUCED). -/
  ledlen : BitVec 16
  /-- MC_ROW (R22). -/
  mcRow : Nat
  /-- MC_COL (R22). -/
  mcCol : Nat
  /-- MODEL's own: the accesses and reset pulses still to come, first one first (log 3, DESIGN CHOICE); in the order the bus delivers them
  (R37; log 10, DESIGN CHOICE). -/
  pending : List HostOp
  /-- MODEL's own: what the bus answered last (log 4, DESIGN CHOICE). -/
  resp : BusResponse
  deriving DecidableEq, Repr

/-- Why the machine stops. -/
inductive Fault where
  /-- A host access the engine does not admit, on a platform whose BUS_ERROR_RESPONSE ends the host program (60_exceptions.md R93, D37,
  93_implementation_defined.md I9). Raised by `State.busError` only. Safe: the engine's own state is unchanged, and the run stops where the
  host program stops. -/
  | busError (off : BitVec 16)
  deriving DecidableEq, Repr

/-- Why an instruction has no meaning. -/
inductive Refusal where
  /-- Raised by an arm of `exec` without a meaning; no arm of this model raises it. Safe. -/
  | notModelled (mnemonic : String)
  deriving DecidableEq, Repr

/-- The engine after reset, for parameters `c` and the draw `d` of reset number `n` (70_reset_and_hazards.md R106): with no cell
listed, ANDM and ORM read as the default masks and the unspecified bytes as the draw (`unwrittenByte`, Machine/Ops.lean); the model's own fields as log 19 (DESIGN CHOICE) says. -/
def State.resetWith (c : Config) (d : List Host.Cell) (n : Nat) : State where
  cfg := c
  draws := d
  resets := n
  mem := []
  args := Vector.replicate 6 0
  cmd := 0
  result := .ok
  err := false
  ledlen := 0
  mcRow := 0
  mcCol := 0
  pending := []
  resp := .quiet

/-- The engine right after power-on reset (R106), with parameters and draw left free (log 1, log 2, DESIGN CHOICE). -/
def State.reset : State := State.resetWith Config.chip (Config.resetDraw 0) 0

end Sys2Proof.Machine
end

