-- ==== Sys2Proof/Machine/Ops.lean ====
section
/-! DEFINITION. The named operations over the state: the parameters' accessors, memory in canonical form, the window layout of
20_memory.md R27, reads and stores of plane bytes, colours and LED buffer bytes, the updates of single fields, and the bus error (the one
way this hardware reports an access it does not admit; it has no exception entry, 60_exceptions.md R99). -/

namespace Sys2Proof

/-- `MAX_LEDS` (00_scope.md R6). -/
def Config.maxLeds (c : Config) : Nat := c.ledCapacity.val + 1

/-- `GW(size)`; asked for sizes 1 to 4 only, since GLYPH tests the size first (41_blit.md R69; log 15, DESIGN CHOICE). -/
def Config.glyphWidth (c : Config) (size : Nat) : Nat :=
  match size with
  | 1 => c.gw1.val + 1
  | 2 => c.gw2.val + 1
  | 3 => c.gw3.val + 1
  | _ => c.gw4.val + 1

/-- `GLYPH_LO` as a character code (00_scope.md R6). -/
def Config.glyphLoCode (c : Config) : Nat :=
  match c.glyphLo with
  | .code32 => 32
  | .code33 => 33

/-- `FONT(size, g, r, k)` (10_state.md R16; log 8, DESIGN CHOICE). -/
def Config.fontByte (c : Config) (size g r k : Nat) : Byte :=
  match c.font.find? (fun row => row.size == size && row.glyph == g && row.row == r) with
  | some row => row.bytes.getD k 0x00#8
  | none => 0x00#8

/-- `MASK_DEFAULT_AND[i]` (10_state.md R17; log 8, DESIGN CHOICE). -/
def Config.maskDefaultAnd (c : Config) (i : Nat) : Byte := c.maskAnd.getD i 0xFF#8

/-- `MASK_DEFAULT_OR[i]` (10_state.md R17; log 8, DESIGN CHOICE). -/
def Config.maskDefaultOr (c : Config) (i : Nat) : Byte := c.maskOr.getD i 0x00#8

/-- The platform address of offset `off` (20_memory.md R27), a whole number without an end (log 21, DESIGN CHOICE). -/
def Config.platformAddress (c : Config) (off : BitVec 16) : Nat := c.base + off.toNat

namespace Machine

/-! ## Memory -/

/-- The byte at address `a`, an unlisted address reading as `d a`. -/
def Memory.read (d : Nat → Byte) (m : Memory) (a : Nat) : Byte :=
  match m with
  | [] => d a
  | cell :: rest => if cell.1 = a then cell.2 else Memory.read d rest a

/-- The cells for the addresses `lo` to `lo + n - 1` with contents `f`, leaving out a cell that equals what an unlisted address reads. -/
def Memory.cells (d : Nat → Byte) (lo n : Nat) (f : Nat → Byte) : Memory :=
  (List.range' lo n).filterMap fun a => if f a = d a then none else some (a, f a)

/-- Store `f a` at every address `a` from `lo` to `lo + n - 1`: the one operation that writes memory. -/
def Memory.writeRange (d : Nat → Byte) (m : Memory) (lo n : Nat) (f : Nat → Byte) : Memory :=
  m.filter (fun cell => cell.1 < lo) ++ Memory.cells d lo n f ++ m.filter (fun cell => lo + n ≤ cell.1)

/-- The canonical form: addresses strictly rising, no cell equal to what an unlisted address reads as. -/
abbrev Memory.wf (d : Nat → Byte) (m : Memory) : Prop :=
  m.Pairwise (fun x y => x.1 < y.1) ∧ ∀ cell ∈ m, cell.2 ≠ d cell.1

/-! ## The window layout (20_memory.md R27) -/

/-- The offset of byte 0 of a plane's window (R27, R30). -/
def Plane.base : Plane → Nat
  | .fb => 0x0400
  | .andm => 0x0800
  | .orm => 0x0C00
  | .out => 0x1000

/-- The plane a target selects (41_blit.md R59). -/
def targetPlane : Target → Plane
  | .fb => .fb
  | .andm => .andm
  | .orm => .orm

/-- The offset of COLOR[0] (R27, R31). -/
def colorBase : Nat := 0x2000

/-- The offset of LEDBUF[0] (R27, R32). -/
def ledBase : Nat := 0x4000

/-- The bytes of the LED buffer: 12·MAX_LEDS + 8 (10_state.md R15). -/
def ledBytes (c : Config) : Nat := 12 * c.maxLeds + 8

/-- The offsets that hold a stored byte: the planes, three bytes of every colour entry, the LED buffer (10_state.md R13). -/
def isStorage (c : Config) (a : Nat) : Bool :=
  (decide (0x0400 ≤ a) && decide (a < 0x1400)) ||
  (decide (colorBase ≤ a) && decide (a < colorBase + 4 * c.maxLeds) && decide (a % 4 ≠ 3)) ||
  (decide (ledBase ≤ a) && decide (a < ledBase + ledBytes c))

/-- The value the draws give to an unspecified byte (70_reset_and_hazards.md R107; log 8, DESIGN CHOICE). -/
def drawnByte (draws : List Host.Cell) (a : Nat) : Byte :=
  match draws with
  | [] => 0x00#8
  | cell :: rest => if cell.1 = a then cell.2 else drawnByte rest a

/-- What an unlisted offset reads as: the reset contents of 70_reset_and_hazards.md R106, which are the default masks in the mask planes
and a draw elsewhere; the top byte of a colour word reads 0 (20_memory.md R31). -/
def unwrittenByte (c : Config) (draws : List Host.Cell) (a : Nat) : Byte :=
  if Plane.andm.base ≤ a ∧ a < Plane.andm.base + 1024 then c.maskDefaultAnd (a - Plane.andm.base)
  else if Plane.orm.base ≤ a ∧ a < Plane.orm.base + 1024 then c.maskDefaultOr (a - Plane.orm.base)
  else if colorBase ≤ a ∧ a < ledBase ∧ a % 4 = 3 then 0x00#8
  else drawnByte draws a

/-! ## Field updates -/

/-- What an unlisted offset reads as in state `s`. -/
def State.unwritten (s : State) (a : Nat) : Byte := unwrittenByte s.cfg s.draws a

def State.setMem (m : Memory) (s : State) : State := { s with mem := m }

/-- `CMD <- w` (40_command_cycle.md R51). -/
def State.setCmd (w : Word) (s : State) : State := { s with cmd := w }

/-- `ARG[n] <- v` (00_scope.md R9). -/
def State.setArg (n : Fin 6) (v : Half) (s : State) : State := { s with args := s.args.set n v }

/-- `MC_ROW <- row ; MC_COL <- col` (10_state.md R22). -/
def State.setCursor (row col : Nat) (s : State) : State := { s with mcRow := row, mcCol := col }

/-- `LEDLEN <- n`, kept in bits [15:0] (10_state.md R21; log 17, DEDUCED). -/
def State.setLedlen (n : Nat) (s : State) : State := { s with ledlen := BitVec.ofNat 16 n }

/-- The accesses still to come. -/
def State.setPending (ops : List HostOp) (s : State) : State := { s with pending := ops }

/-- What the bus answers to the access being made. -/
def State.respond (r : BusResponse) (s : State) : State := { s with resp := r }

/-! ## Reads and stores -/

/-- The stored byte at an offset. -/
def State.byte (s : State) (a : Nat) : Byte := Memory.read s.unwritten s.mem a

/-- Store `f a` at the offsets `a` from `lo` to `lo + n - 1`. -/
def State.store (lo n : Nat) (f : Nat → Byte) (s : State) : State :=
  s.setMem (Memory.writeRange s.unwritten s.mem lo n f)

/-- `PL[p][i]` (00_scope.md R9). -/
def State.planeByte (s : State) (p : Plane) (i : Nat) : Byte := s.byte (p.base + i)

/-- Pixel (x, y) of plane `p`: bit (y mod 8) of byte (y >> 3)·128 + x (10_state.md R11). -/
def State.pixel (s : State) (p : Plane) (x y : Nat) : Bool := (s.planeByte p (y / 8 * 128 + x)).getLsbD (y % 8)

/-- Store `f i` at every byte `i` of plane `p`. -/
def State.storePlane (p : Plane) (f : Nat → Byte) (s : State) : State :=
  s.store p.base 1024 (fun a => f (a - p.base))

/-- Store `v` at byte `i` of plane `p`. -/
def State.setPlaneByte (p : Plane) (i : Nat) (v : Byte) (s : State) : State := s.store (p.base + i) 1 (fun _ => v)

/-- Store `g st x` at byte `st·128 + x` of plane `p` for every stripe `st` in [s0, s1] and column `x` in [x0, x1]; the other bytes
keep what they hold. Every `g st x` is computed from the state before the store (log 7, DEDUCED). -/
def State.storeRect (p : Plane) (s0 s1 x0 x1 : Nat) (g : Nat → Nat → Byte) (s : State) : State :=
  s.store (p.base + (s0 * 128 + x0)) (s1 * 128 + x1 + 1 - (s0 * 128 + x0)) fun a =>
    if x0 ≤ (a - p.base) % 128 ∧ (a - p.base) % 128 ≤ x1 then g ((a - p.base) / 128) ((a - p.base) % 128) else s.byte a

/-- The offsets `storeRect` stores to: the bytes of stripes s0 to s1 and columns x0 to x1 of plane `p`. -/
def inRect (p : Plane) (s0 s1 x0 x1 a : Nat) : Prop :=
  p.base ≤ a ∧ (s0 ≤ (a - p.base) / 128 ∧ (a - p.base) / 128 ≤ s1) ∧ x0 ≤ (a - p.base) % 128 ∧ (a - p.base) % 128 ≤ x1

/-- Byte `b` of the 32-bit word a colour is read as (20_memory.md R31): blue, green, red, and 0. -/
def colorByte (c : Color) (b : Nat) : Byte := (c.setWidth 32).extractLsb' (8 * b) 8

/-- `COLOR[j]` (10_state.md R14). -/
def State.color (s : State) (j : Nat) : Color :=
  s.byte (colorBase + 4 * j + 2) ++ s.byte (colorBase + 4 * j + 1) ++ s.byte (colorBase + 4 * j)

/-- `COLOR[j] <- g j` for the `n` entries from `lo` on. -/
def State.storeColors (lo n : Nat) (g : Nat → Color) (s : State) : State :=
  s.store (colorBase + 4 * lo) (4 * n) (fun a => colorByte (g ((a - colorBase) / 4)) ((a - colorBase) % 4))

/-- `LEDBUF[k]` (10_state.md R15). -/
def State.ledByte (s : State) (k : Nat) : Byte := s.byte (ledBase + k)

/-- `LEDBUF[k] <- f k` for k from 0 to n − 1. -/
def State.storeLed (n : Nat) (f : Nat → Byte) (s : State) : State :=
  s.store ledBase n (fun a => f (a - ledBase))

/-! ## Byte order (20_memory.md R34) -/

/-- The `w`-byte value at offset `a`, the lowest offset in bits [7:0], zero-extended (R30, R32; log 11, DEDUCED). -/
def State.readBytes (s : State) (a : Nat) (w : Width) : Word :=
  match w with
  | .b1 => (s.byte a).setWidth 32
  | .b2 => (s.byte (a + 1) ++ s.byte a).setWidth 32
  | .b4 => s.byte (a + 3) ++ s.byte (a + 2) ++ s.byte (a + 1) ++ s.byte a

/-- The number of bytes of an access (R28). -/
def Width.bytes : Width → Nat
  | .b1 => 1
  | .b2 => 2
  | .b4 => 4

/-- Byte `j` of `v`, `v[8j+7 : 8j]` (R30). -/
def wordByte (v : Word) (j : Nat) : Byte := v.extractLsb' (8 * j) 8

/-- Store the low bytes of `v` at the offsets from `a` on, byte 0 first (R30). -/
def State.writeBytes (a : Nat) (w : Width) (v : Word) (s : State) : State :=
  s.store a w.bytes (fun b => wordByte v (b - a))

/-! ## Bus error -/

/-- `raise BusError(off)` (60_exceptions.md R93): the access completes with an error response and changes no engine state; whether the host
program ends there is the parameter BUS_ERROR_RESPONSE (log 5, DESIGN CHOICE). -/
def State.busError (off : BitVec 16) (s : State) : Host.Outcome State Fault Refusal :=
  match s.cfg.busErrorResponse with
  | .endsProgram => .fault (.busError off)
  | .goesOn => .next (s.respond (.error off))

end Machine

end Sys2Proof
end

