-- ==== Sys2Proof/Machine/Flags.lean ====
section
/-! DEFINITION. The status register (10_state.md R20) and the other registers that are views of fields, and `finish`
(40_command_cycle.md R53). The engine has no condition codes (R25). -/

namespace Sys2Proof.Machine

/-- The number of a result code (60_exceptions.md R94). -/
def ResultCode.code : ResultCode → BitVec 3
  | .ok => 0
  | .rejected => 1
  | .errIllegal => 2
  | .errNocolor => 3
  | .errRange => 4

/-- Whether a code sets STATUS.ERR: code 2 or more (R53). -/
def ResultCode.setsErr (code : ResultCode) : Bool := decide (2 ≤ code.code.toNat)

/-- `finish(code)`: STATUS.RESULT is the code, and ERR is set if the code is 2 or more, else kept (R53). -/
def State.finish (code : ResultCode) (s : State) : State :=
  { s with result := code, err := s.err || code.setsErr }

/-- STATUS as a word: RESULT in bits [2:0], ERR in bit 8, the rest 0 (R20). -/
def State.statusWord (s : State) : Word :=
  0#23 ++ BitVec.ofBool s.err ++ 0#5 ++ s.result.code

/-- A host write of `v` to STATUS: ERR is cleared if v[8] is 1; nothing else changes (20_memory.md R29). -/
def State.writeStatus (v : Word) (s : State) : State := { s with err := s.err && !v.getLsbD 8 }

/-- LEDLEN as a word: bits [31:16] read 0 (10_state.md R21). -/
def State.ledlenWord (s : State) : Word := s.ledlen.setWidth 32

/-- MASKCUR: MC_COL in bits [7:0], MC_ROW in bits [23:16], the rest 0 (10_state.md R22). -/
def State.maskcurWord (s : State) : Word :=
  0#8 ++ BitVec.ofNat 8 s.mcRow ++ 0#8 ++ BitVec.ofNat 8 s.mcCol

end Sys2Proof.Machine
end

