-- ==== Sys2Proof/Machine/Operands.lean ====
section
/-! DEFINITION. Operand assembly (30_encoding.md R44): how each command reads ARG0 to ARG5. -/

namespace Sys2Proof.Machine

/-- `sext_16(ARG[n])`: a coordinate or an offset, in [−32768, 32767] (00_scope.md R8, 30_encoding.md R44). -/
def State.signedArg (s : State) (n : Fin 6) : Int := s.args[n].toInt

/-- `zext_16(ARG[n])`: a count or an index, in [0, 65535] (00_scope.md R8, 30_encoding.md R44). -/
def State.unsignedArg (s : State) (n : Fin 6) : Nat := s.args[n].toNat

/-- `ARG1[11:0]`, the 3-digit colour of COLOR12; ARG1[15:12] is not read (R44). -/
def State.rgb12 (s : State) : BitVec 12 := s.args[1].extractLsb' 0 12

/-- `a & ~7` on integers: rounding down to a multiple of 8, negatives toward minus infinity (00_scope.md R8). -/
def maskLow3 (a : Int) : Int := 8 * (a / 8)

/-- `(y & ~7) >> 3`, the stripe of a row coordinate or offset (41_blit.md R65). -/
def stripeOf (y : Int) : Int := maskLow3 y / 8

end Sys2Proof.Machine
end

