-- ==== Sys2Proof/Machine/Blit.lean ====
section
/-! DEFINITION. The BLIT unit: FILL, ERASE, COPY and GLYPH (41_blit.md). All geometry is on unbounded integers (00_scope.md R8). -/

namespace Sys2Proof.Machine

/-- A clipped rectangle, corners inclusive: 0 ≤ x0 ≤ x1 ≤ 127 and 0 ≤ y0 ≤ y1 ≤ 63 (R60). -/
structure Rect where
  x0 : Nat
  y0 : Nat
  x1 : Nat
  y1 : Nat
  deriving DecidableEq, Repr

/-- Normalise the corners, reject a rectangle fully outside the grid, clip the rest (R60). -/
def rectClip (x0 y0 x1 y1 : Int) : Option Rect :=
  let xa := min x0 x1
  let xb := max x0 x1
  let ya := min y0 y1
  let yb := max y0 y1
  if xb < 0 ∨ 127 < xa ∨ yb < 0 ∨ 63 < ya then none
  else some { x0 := (max xa 0).toNat, y0 := (max ya 0).toNat, x1 := (min xb 127).toNat, y1 := (min yb 63).toNat }

/-- The byte with bits lo to hi set (R61). -/
def stripeMask (lo hi : Nat) : Byte := (0xFF#8 <<< lo) &&& (0xFF#8 >>> (7 - hi))

/-- The bits of stripe `st` that rows y0 to y1 touch (R61). -/
def rowMask (st y0 y1 : Nat) : Byte :=
  stripeMask (if st = y0 / 8 then y0 % 8 else 0) (if st = y1 / 8 then y1 % 8 else 7)

/-- The rectangle of FILL and ERASE, from ARG0 to ARG3 (R62). -/
def State.rectArgs (s : State) : Option Rect :=
  rectClip (s.signedArg 0) (s.signedArg 1) (s.signedArg 2) (s.signedArg 3)

/-- The shape of FILL and ERASE: `op` of every byte of the rectangle and its row mask, or REJECTED (R62, R63). -/
def State.drawRect (t : Target) (op : Byte → Byte → Byte) (s : State) : State :=
  match s.rectArgs with
  | none => s.finish .rejected
  | some r =>
    (s.storeRect (targetPlane t) (r.y0 / 8) (r.y1 / 8) r.x0 r.x1 fun st x =>
      op (s.planeByte (targetPlane t) (st * 128 + x)) (rowMask st r.y0 r.y1)).finish .ok

/-- FILL (R62): set every pixel of a rectangle. -/
def execFill (t : Target) (s : State) : Host.Outcome State Fault Refusal :=
  .next (s.drawRect t fun old m => old ||| m)

/-- ERASE (R63): clear every pixel of a rectangle. -/
def execErase (t : Target) (s : State) : Host.Outcome State Fault Refusal :=
  .next (s.drawRect t fun old m => old &&& ~~~m)

/-- The clipped source of a copy, stripes cs0 to cs1 and columns cx0 to cx1, and its offset in stripes and columns (R66). -/
structure CopyWindow where
  cs0  : Int
  cs1  : Int
  cx0  : Int
  cx1  : Int
  ds   : Int
  xOff : Int
  deriving DecidableEq, Repr

/-- Stripe alignment (R65), normalising, and clipping at the source side so that source and destination lie in the plane (R66). -/
def copyClip (x0 y0 x1 y1 xOff yOff : Int) : Option CopyWindow :=
  let s0 := stripeOf y0
  let s1 := stripeOf y1
  let ds := stripeOf yOff
  let cx0 := max (min x0 x1) (max 0 (-xOff))
  let cx1 := min (max x0 x1) (min 127 (127 - xOff))
  let cs0 := max (min s0 s1) (max 0 (-ds))
  let cs1 := min (max s0 s1) (min 7 (7 - ds))
  if cx1 < cx0 ∨ cs1 < cs0 then none
  else some { cs0 := cs0, cs1 := cs1, cx0 := cx0, cx1 := cx1, ds := ds, xOff := xOff }

/-- The window of COPY, from ARG0 to ARG5 (R68). -/
def State.copyArgs (s : State) : Option CopyWindow :=
  copyClip (s.signedArg 0) (s.signedArg 1) (s.signedArg 2) (s.signedArg 3) (s.signedArg 4) (s.signedArg 5)

/-- The index of the source byte of destination byte (st, x): stripe `st - ds`, column `x - xOff` (R66). -/
def CopyWindow.sourceIndex (w : CopyWindow) (st x : Nat) : Nat := ((st - w.ds) * 128 + (x - w.xOff)).toNat

/-- COPY's effect (R68): every destination byte receives what its source byte held before the command (R67), or REJECTED. -/
def State.copyRect (t : Target) (s : State) : State :=
  match s.copyArgs with
  | none => s.finish .rejected
  | some w =>
    (s.storeRect (targetPlane t) (w.cs0 + w.ds).toNat (w.cs1 + w.ds).toNat (w.cx0 + w.xOff).toNat (w.cx1 + w.xOff).toNat
      fun st x => s.planeByte (targetPlane t) (w.sourceIndex st x)).finish .ok

/-- COPY (R68): copy a stripe-aligned rectangle within a plane. -/
def execCopy (t : Target) (s : State) : Host.Outcome State Fault Refusal := .next (s.copyRect t)

/-- The glyph index of a character code (R70). -/
def glyphIndex (c : Config) (ch : Nat) : Nat := if c.glyphLoCode ≤ ch ∧ ch ≤ 126 then ch - 32 else 0

/-- Whether GLYPH is drawn: the size check, then the fit check (R69). -/
def glyphFits (c : Config) (size : Nat) (x y : Int) : Bool :=
  if size < 1 ∨ 4 < size then false
  else !decide (x < 0 ∨ y < 0 ∨ 64 - 8 * (size : Int) < y ∨ 128 - (c.glyphWidth size : Int) < x)

/-- GLYPH's effect (R72): `size` stripe-rows of GW(size) font bytes replace plane bytes from stripe y >> 3 on (R71), or REJECTED. -/
def State.drawGlyph (t : Target) (size ch : Nat) (s : State) : State :=
  if glyphFits s.cfg size (s.signedArg 0) (s.signedArg 1) then
    (s.storeRect (targetPlane t) ((s.signedArg 1).toNat / 8) ((s.signedArg 1).toNat / 8 + size - 1) (s.signedArg 0).toNat
      ((s.signedArg 0).toNat + s.cfg.glyphWidth size - 1) fun st x =>
        s.cfg.fontByte size (glyphIndex s.cfg ch) (st - (s.signedArg 1).toNat / 8) (x - (s.signedArg 0).toNat)).finish .ok
  else s.finish .rejected

/-- GLYPH (R72): draw one glyph. -/
def execGlyph (t : Target) (size ch : Nat) (s : State) : Host.Outcome State Fault Refusal := .next (s.drawGlyph t size ch)

end Sys2Proof.Machine
end

