-- ==== Sys2Proof/Machine/Enc.lean ====
section
/-! DEFINITION. The ENC unit: COLOR12 and ENCODE (43_ws2812.md). -/

namespace Sys2Proof.Machine

/-- `hex3to6`: each of the three digits doubled, { r, r, g, g, b, b } (R82). -/
def hex3to6 (v : BitVec 12) : Color :=
  v.extractLsb' 8 4 ++ v.extractLsb' 8 4 ++ v.extractLsb' 4 4 ++ v.extractLsb' 4 4 ++ v.extractLsb' 0 4 ++ v.extractLsb' 0 4

/-- COLOR12's effect (R82): the entry ARG0 receives the expanded colour, or ERR_RANGE. -/
def State.storeColor12 (s : State) : State :=
  if s.cfg.maxLeds ≤ s.unsignedArg 0 then s.finish .errRange
  else (s.storeColors (s.unsignedArg 0) 1 fun _ => hex3to6 s.rgb12).finish .ok

/-- COLOR12 (R82). -/
def execColor12 (s : State) : Host.Outcome State Fault Refusal := .next s.storeColor12

/-- The wire word {G, R, B} of a colour {R, G, B} (R83). -/
def wireWord (c : Color) : Color := c.extractLsb' 8 8 ++ c.extractLsb' 16 8 ++ c.extractLsb' 0 8

/-- `CODE[v]` (R84). -/
def codeByte (v : BitVec 2) : Byte :=
  match v.toNat with
  | 0 => 0x22#8
  | 1 => 0x26#8
  | 2 => 0x62#8
  | _ => 0x66#8

/-- Group k of a wire word, `W[23-2k : 22-2k]` for k from 0 to 11 (R85). -/
def wireGroup (w : Color) (k : Nat) : BitVec 2 := w.extractLsb' (22 - 2 * k) 2

/-- Byte k of the frame of `count` LEDs with the given colours (R87): four zeros, twelve code bytes an LED, four zeros. -/
def frameByte (count : Nat) (color : Nat → Color) (k : Nat) : Byte :=
  if k < 4 ∨ 12 * count + 4 ≤ k then 0x00#8
  else codeByte (wireGroup (wireWord (color ((k - 4) / 12))) ((k - 4) % 12))

/-- The cyclic fill (R86): the entries from S to C − 1 repeat the S supplied ones. -/
def State.fillColors (count supplied : Nat) (s : State) : State :=
  s.storeColors supplied (count - supplied) fun i => s.color (i % supplied)

/-- The frame of the colours as they stand, and its length (R87, R88). -/
def State.storeFrame (count : Nat) (s : State) : State :=
  (s.storeLed (12 * count + 8) (frameByte count s.color)).setLedlen (12 * count + 8)

/-- ENCODE's effect (R89): the range check, the no-colour check, the fill, then the frame of the filled colours. -/
def State.encodeLeds (s : State) : State :=
  if s.cfg.maxLeds < s.unsignedArg 0 then s.finish .errRange
  else if 0 < s.unsignedArg 0 ∧ s.unsignedArg 1 = 0 then s.finish .errNocolor
  else ((s.fillColors (s.unsignedArg 0) (s.unsignedArg 1)).storeFrame (s.unsignedArg 0)).finish .ok

/-- ENCODE (R89). -/
def execEncode (s : State) : Host.Outcome State Fault Refusal := .next s.encodeLeds

end Sys2Proof.Machine
end

