-- ==== Sys2Proof/Machine/Mask.lean ====
section
/-! DEFINITION. The MASK unit: COMPOSITE, MASKINIT and MASKCHAR (42_mask.md). -/

namespace Sys2Proof.Machine

/-- COMPOSITE's effect: OUT[i] is (FB[i] | ORM[i]) & ANDM[i] for all 1024 bytes (R74). -/
def State.compose (s : State) : State :=
  s.storePlane .out fun i => (s.planeByte .fb i ||| s.planeByte .orm i) &&& s.planeByte .andm i

/-- COMPOSITE (R74). -/
def execComposite (s : State) : Host.Outcome State Fault Refusal := .next (s.compose.finish .ok)

/-- The default mask pair goes into ANDM and ORM (R76). -/
def State.loadMasks (s : State) : State :=
  (s.storePlane .andm s.cfg.maskDefaultAnd).storePlane .orm s.cfg.maskDefaultOr

/-- MASKINIT (R76): the default mask pair, and the mask-text cursor to row 0, column 0. -/
def execMaskinit (s : State) : Host.Outcome State Fault Refusal := .next ((s.loadMasks.setCursor 0 0).finish .ok)

/-- `NewLine()` (R78). -/
def State.newLine (s : State) : State := s.setCursor (min (s.mcRow + 1) 64) 0

/-- The byte with bit `b` set. -/
def bitMask (b : Nat) : Byte := 1#8 <<< b

/-- The byte index of the pixel under the cursor (R79). -/
def State.cursorIndex (s : State) : Nat := s.mcRow / 8 * 128 + s.mcCol

/-- The bit of the pixel under the cursor in its byte (R79). -/
def State.cursorBit (s : State) : Byte := bitMask (s.mcRow % 8)

/-- What a character other than a line end does to the pixel under the cursor: 'X' (0x58) clears its ANDM bit, '+' (0x2B) sets its
ORM bit, any other leaves it (R79, R77). -/
def State.markPixel (ch : Nat) (s : State) : State :=
  if ch = 0x58 then
    s.setPlaneByte .andm s.cursorIndex (s.planeByte .andm s.cursorIndex &&& ~~~s.cursorBit)
  else if ch = 0x2B then
    s.setPlaneByte .orm s.cursorIndex (s.planeByte .orm s.cursorIndex ||| s.cursorBit)
  else s

/-- MASKCHAR's effect (R79). -/
def State.maskChar (ch : Nat) (s : State) : State :=
  if ch = 0x0A then s.newLine
  else (if s.mcRow < 64 ∧ s.mcCol < 128 then s.markPixel ch else s).setCursor s.mcRow (min (s.mcCol + 1) 128)

/-- MASKCHAR (R79): apply one character of the mask text. -/
def execMaskchar (ch : Nat) (s : State) : Host.Outcome State Fault Refusal := .next ((s.maskChar ch).finish .ok)

end Sys2Proof.Machine
end

