-- ==== Sys2Proof/Machine/Nop.lean ====
section
/-! DEFINITION. NOP (40_command_cycle.md R58). -/

namespace Sys2Proof.Machine

/-- NOP (R58): `finish(OK)`. -/
def execNop (s : State) : Host.Outcome State Fault Refusal := .next (s.finish .ok)

end Sys2Proof.Machine
end

