-- ==== Sys2Proof/Machine/Dispatch.lean ====
section
/-! DEFINITION. `Exec(w)` of 40_command_cycle.md R51: one arm per command of 30_encoding.md R45, each one call of its meaning. -/

namespace Sys2Proof.Machine

def exec (i : Instr) (s : State) : Host.Outcome State Fault Refusal :=
  match i with
  | .nop => Sys2Proof.Machine.execNop s
  | .fill t => Sys2Proof.Machine.execFill t s
  | .erase t => Sys2Proof.Machine.execErase t s
  | .copy t => Sys2Proof.Machine.execCopy t s
  | .glyph t size c => Sys2Proof.Machine.execGlyph t size c s
  | .composite => Sys2Proof.Machine.execComposite s
  | .maskinit => Sys2Proof.Machine.execMaskinit s
  | .maskchar ch => Sys2Proof.Machine.execMaskchar ch s
  | .color12 => Sys2Proof.Machine.execColor12 s
  | .encode => Sys2Proof.Machine.execEncode s

end Sys2Proof.Machine
end

