-- ==== Sys2Proof/Machine/Bus.lean ====
section
/-! DEFINITION. The host bus (20_memory.md) and the command cycle (40_command_cycle.md R51). -/

namespace Sys2Proof.Machine

/-- The rows of the address map (20_memory.md R27). -/
inductive Place where
  | cmd
  | status
  | arg (n : Fin 6)
  | ledlen
  | maskcur
  | plane (p : Plane)
  | color
  | ledbuf
  | reserved
  deriving DecidableEq, Repr

/-- The register of word `n` of the register region (R27). -/
def registerAt (n : Nat) : Place :=
  match n with
  | 0 => .cmd
  | 1 => .status
  | 2 => .arg 0
  | 3 => .arg 1
  | 4 => .arg 2
  | 5 => .arg 3
  | 6 => .arg 4
  | 7 => .arg 5
  | 8 => .ledlen
  | 9 => .maskcur
  | _ => .reserved

/-- The row of the map that offset `a` falls in (R27). -/
def locate (c : Config) (a : Nat) : Place :=
  if a < 0x0028 then registerAt (a / 4)
  else if a < 0x0400 then .reserved
  else if a < 0x0800 then .plane .fb
  else if a < 0x0C00 then .plane .andm
  else if a < 0x1000 then .plane .orm
  else if a < 0x1400 then .plane .out
  else if a < 0x2000 then .reserved
  else if a < 0x2000 + 4 * c.maxLeds then .color
  else if a < 0x4000 then .reserved
  else if a < 0x4000 + (12 * c.maxLeds + 8) then .ledbuf
  else .reserved

/-- Whether a row admits a read of the width (R29 to R33). -/
def Place.admitsRead (p : Place) (w : Width) : Bool :=
  match p with
  | .cmd => w == .b4
  | .status => w == .b4
  | .arg _ => w == .b4
  | .ledlen => w == .b4
  | .maskcur => w == .b4
  | .color => w == .b4
  | .plane _ => true
  | .ledbuf => true
  | .reserved => false

/-- Whether a row admits a write of the width (R29 to R33). -/
def Place.admitsWrite (p : Place) (w : Width) : Bool :=
  match p with
  | .cmd => w == .b4
  | .status => w == .b4
  | .arg _ => w == .b4
  | .color => w == .b4
  | .plane .fb => true
  | .plane .andm => true
  | .plane .orm => true
  | .plane .out => false
  | .ledlen => false
  | .maskcur => false
  | .ledbuf => false
  | .reserved => false

/-- Natural alignment (R28). -/
def aligned (off : BitVec 16) (w : Width) : Bool := decide (off.toNat % w.bytes = 0)

/-- Whether `MemRead(off, w)` is admitted (R28). -/
def readAdmitted (c : Config) (off : BitVec 16) (w : Width) : Bool :=
  aligned off w && (locate c off.toNat).admitsRead w

/-- Whether `MemWrite(off, w, v)` is admitted (R28). -/
def writeAdmitted (c : Config) (off : BitVec 16) (w : Width) : Bool :=
  aligned off w && (locate c off.toNat).admitsWrite w

/-- The value an admitted read returns (R29 to R32). -/
def State.readValue (off : BitVec 16) (w : Width) (s : State) : Word :=
  match locate s.cfg off.toNat with
  | .cmd => s.cmd
  | .status => s.statusWord
  | .arg n => s.args[n].setWidth 32
  | .ledlen => s.ledlenWord
  | .maskcur => s.maskcurWord
  | .plane _ => s.readBytes off.toNat w
  | .color => (s.color ((off.toNat - colorBase) / 4)).setWidth 32
  | .ledbuf => s.readBytes off.toNat w
  | .reserved => 0

/-- The command cycle (40_command_cycle.md R51): `CMD <- w`, then `Exec(w)`, or ERR_ILLEGAL for a word that is no legal command. -/
def commandCycle (w : Word) (s : State) : Host.Outcome State Fault Refusal :=
  match decode w with
  | .ok i => exec i (s.setCmd w)
  | .error _ => .next ((s.setCmd w).finish .errIllegal)

/-- `MemRead(off, w)` (R28): the value, or a bus error; no side effect (R35). -/
def State.hostRead (off : BitVec 16) (w : Width) (s : State) : Host.Outcome State Fault Refusal :=
  if readAdmitted s.cfg off w then .next (s.respond (.data (s.readValue off w))) else s.busError off

/-- The effect of an admitted write on the row it falls in (R29 to R32). -/
def State.writePlace (p : Place) (off : BitVec 16) (w : Width) (v : Word) (s : State) : Host.Outcome State Fault Refusal :=
  match p with
  | .cmd => commandCycle v s
  | .status => .next (s.writeStatus v)
  | .arg n => .next (s.setArg n (v.extractLsb' 0 16))
  | .plane _ => .next (s.writeBytes off.toNat w v)
  | .color => .next (s.storeColors ((off.toNat - colorBase) / 4) 1 fun _ => v.extractLsb' 0 24)
  | .ledlen => s.busError off
  | .maskcur => s.busError off
  | .ledbuf => s.busError off
  | .reserved => s.busError off

/-- `MemWrite(off, w, v)` (R28): the write's effect, or a bus error. -/
def State.hostWrite (off : BitVec 16) (w : Width) (v : Word) (s : State) : Host.Outcome State Fault Refusal :=
  if writeAdmitted s.cfg off w then (s.respond .written).writePlace (locate s.cfg off.toNat) off w v else s.busError off

/-- A pulse of the reset input (70_reset_and_hazards.md R106): every piece of the engine's state at its reset value, with a fresh draw for
the unspecified bytes; what the world outside has still to do stays (log 9, DESIGN CHOICE). -/
def State.resetEvent (s : State) : State :=
  (State.resetWith s.cfg (Config.resetDraw (s.resets + 1)) (s.resets + 1)).setPending s.pending

/-- One access or reset pulse, made on the engine. -/
def State.hostOp (op : HostOp) (s : State) : Host.Outcome State Fault Refusal :=
  match op with
  | .read off w => s.hostRead off w
  | .write off w v => s.hostWrite off w v
  | .reset => .next s.resetEvent

/-- The next access is made, whole, before any other (20_memory.md R36, R37); with none to come the engine is idle (R106;
log 20, DEDUCED). -/
def State.serve (s : State) : Host.Outcome State Fault Refusal :=
  match s.pending with
  | [] => .next s
  | op :: rest => (s.setPending rest).hostOp op

/-- The access that writes the command word `w` to CMD (30_encoding.md R48). -/
def commandWrite (w : Word) : HostOp := .write 0x0000 .b4 w

end Sys2Proof.Machine
end

