-- ==== Sys2Proof/Machine/Step.lean ====
section
/-! DEFINITION. One step of the machine: one host access, or one reset pulse, made whole (20_memory.md R36). The engine has no program counter
and fetches nothing (10_state.md R24): the order of commands is the order of the host's writes to CMD (40_command_cycle.md R55). -/

namespace Sys2Proof.Machine

/-- One step (log 3, DESIGN CHOICE). -/
def step (s : State) : Host.Outcome State Fault Refusal := s.serve

/-- `s` with the host about to write the word to CMD before anything else it had to do, so that the next step runs exactly that command
(log 3, DESIGN CHOICE). -/
def State.withFetchWord (s : State) (nbits w : Nat) : State :=
  s.setPending (commandWrite (BitVec.ofNat 32 (w % 2 ^ nbits)) :: s.pending)

end Sys2Proof.Machine
end

