-- ==== Sys2Proof/Machine/Asm.lean ====
section
/-! DEFINITION. The assembly language of 30_encoding.md: the command mnemonics of R49 and the pseudo-instructions of R50, each as the list of
host bus accesses it expands to; `none` where the assembler refuses the operands (log 18, DESIGN CHOICE). -/

namespace Sys2Proof.Machine

/-- A line of R49's second layer: a command with its numeric operands. -/
inductive AsmLine where
  | nop
  | fill (t : Target) (x0 y0 x1 y1 : Int)
  | erase (t : Target) (x0 y0 x1 y1 : Int)
  | copy (t : Target) (x0 y0 x1 y1 dx dy : Int)
  | glyph (t : Target) (x y : Int) (c size : Nat)
  | composite
  | maskinit
  | maskchar (c : Nat)
  | color12 (index rgb12 : Int)
  | encode (count supplied : Int)
  deriving DecidableEq, Repr

/-- The offset of ARGn (20_memory.md R27). -/
def argOffset (n : Nat) : BitVec 16 := BitVec.ofNat 16 (0x0008 + 4 * n)

/-- The 16-bit pattern of an ARG operand; an assembler refuses numbers outside [−32768, 65535] (R49). -/
def argPattern (v : Int) : Option Half :=
  if -32768 ≤ v ∧ v ≤ 65535 then some (BitVec.ofInt 16 v) else none

/-- `wr ARGn, v` for the operands from ARGn on, in ascending n (R49). -/
def argWrites (n : Nat) (vs : List Int) : Option (List HostOp) :=
  match vs with
  | [] => some []
  | v :: rest =>
    match argPattern v, argWrites (n + 1) rest with
    | some p, some ops => some (.write (argOffset n) .b4 (p.setWidth 32) :: ops)
    | _, _ => none

/-- The ARG writes, then `wr CMD, w` (R49). -/
def commandLine (i : Instr) (vs : List Int) : Option (List HostOp) :=
  match argWrites 0 vs with
  | some ops => if i.wellFormed then some (ops ++ [commandWrite (encode i)]) else none
  | none => none

/-- The canonical expansion of a command (R49). -/
def AsmLine.expand : AsmLine → Option (List HostOp)
  | .nop => commandLine .nop []
  | .fill t x0 y0 x1 y1 => commandLine (.fill t) [x0, y0, x1, y1]
  | .erase t x0 y0 x1 y1 => commandLine (.erase t) [x0, y0, x1, y1]
  | .copy t x0 y0 x1 y1 dx dy => commandLine (.copy t) [x0, y0, x1, y1, dx, dy]
  | .glyph t x y c size => commandLine (.glyph t size c) [x, y]
  | .composite => commandLine .composite []
  | .maskinit => commandLine .maskinit []
  | .maskchar c => commandLine (.maskchar c) []
  | .color12 index rgb12 => commandLine .color12 [index, rgb12]
  | .encode count supplied => commandLine .encode [count, supplied]

/-- A pseudo-instruction (R50). -/
inductive Pseudo where
  | clear (t : Target)
  | setall (t : Target)
  | pixel (t : Target) (x y : Int)
  | unpixel (t : Target) (x y : Int)
  | print (t : Target) (x y : Int) (text : List Nat) (size : Nat)
  | color24 (index rgb24 : Nat)
  | maskline (text : List Nat)
  | status
  | clrerr
  deriving DecidableEq, Repr

/-- The expansions of a list of lines, one after the other. -/
def expandLines (lines : List AsmLine) : Option (List HostOp) :=
  match lines with
  | [] => some []
  | line :: rest =>
    match line.expand, expandLines rest with
    | some ops, some more => some (ops ++ more)
    | _, _ => none

/-- The glyph lines of `print`: character k at x + k·GW(size) (R50). -/
def printLines (t : Target) (x y : Int) (text : List Nat) (size advance : Nat) : List AsmLine :=
  match text with
  | [] => []
  | ch :: rest => .glyph t x y ch size :: printLines t (x + advance) y rest size advance

/-- The expansion of a pseudo-instruction on a machine with the parameters `c` (R50). -/
def Pseudo.expand (c : Config) : Pseudo → Option (List HostOp)
  | .clear t => AsmLine.expand (.erase t 0 0 127 63)
  | .setall t => AsmLine.expand (.fill t 0 0 127 63)
  | .pixel t x y => AsmLine.expand (.fill t x y x y)
  | .unpixel t x y => AsmLine.expand (.erase t x y x y)
  | .print t x y text size =>
    if 1 ≤ size ∧ size ≤ 4 then expandLines (printLines t x y text size (c.glyphWidth size)) else none
  | .color24 index rgb24 =>
    if colorBase + 4 * index < 2 ^ 16 ∧ rgb24 < 2 ^ 32 then
      some [.write (BitVec.ofNat 16 (colorBase + 4 * index)) .b4 (BitVec.ofNat 32 rgb24)]
    else none
  | .maskline text => expandLines (text.map AsmLine.maskchar ++ [.maskchar 0x0A])
  | .status => some [.read 0x0004 .b4]
  | .clrerr => some [.write 0x0004 .b4 0x100]

end Sys2Proof.Machine
end

