-- ==== Sys2Proof/Machine/Wire.lean ====
section
/-! DEFINITION. The wire contract of the LED frame (43_ws2812.md R90, R91): the bit stream a transmitter outside the engine shifts out, as
functions of the state. The engine has no serialiser and no step depends on them (log 13, DESIGN CHOICE). -/

namespace Sys2Proof.Machine

/-- The number of bit-times the LED frame takes on the wire: 8 for each of the LEDLEN bytes (R90). -/
def State.wireLength (s : State) : Nat := 8 * s.ledlen.toNat

/-- Bit-time `n` of the stream: the bytes LEDBUF[0 .. LEDLEN−1] in ascending order, each most significant bit first (R90). -/
def State.wireBit (s : State) (n : Nat) : Bool := (s.ledByte (n / 8)).getLsbD (7 - n % 8)

/-- The first bit-time of data bit `j` (0 to 23) of LED `i`: a data bit spans 4 bit-times, an LED 24 data bits, after 32 bit-times of
zero bytes (R91, R87). -/
def dataBitTime (i j : Nat) : Nat := 32 + 96 * i + 4 * j

/-- How many of the four bit-times of a data bit are high (R91): one for a 0 bit, two for a 1 bit. -/
def highBitTimes (b : Bool) : Nat := if b then 2 else 1

/-- The nanoseconds that `n` bit-times last at SPI_HZ, rounded down (R91; log 13, DESIGN CHOICE). At an SPI_HZ of 0 it answers 0, the model's
number (log 21, DESIGN CHOICE). -/
def wireNanoseconds (c : Config) (n : Nat) : Nat := n * 1000000000 / c.spiHz

end Sys2Proof.Machine
end

