-- ==== Sys2Proof/Safety.lean ====
section
/-! DEFINITION. What counts as a good state and a safe run, in the terms the statements use. -/

namespace Sys2Proof.Machine

/-- A length the last successful ENCODE may have left, or the reset value (10_state.md R21). -/
def ledlenLegal (c : Config) (n : Nat) : Prop := n = 0 ∨ ∃ count, count ≤ c.maxLeds ∧ n = 12 * count + 8

/-- The invariant of the engine. -/
structure State.Inv (s : State) : Prop where
  /-- Memory is in its canonical form. -/
  memory : Memory.wf s.unwritten s.mem
  /-- Every stored byte lies in a plane, in a colour entry or in the LED buffer (10_state.md R13). -/
  bounds : ∀ cell ∈ s.mem, isStorage s.cfg cell.1 = true
  /-- MC_ROW ∈ [0, 64] (R22). -/
  row : s.mcRow ≤ 64
  /-- MC_COL ∈ [0, 128] (R22). -/
  col : s.mcCol ≤ 128
  /-- LEDLEN is 0 or 12·C + 8 for an LED count the colour RAM holds (R21). -/
  ledlen : ledlenLegal s.cfg s.ledlen.toNat

/-- The engine admits the access (20_memory.md R28); a reset pulse always lands. -/
def HostOp.admitted (c : Config) : HostOp → Bool
  | .read off w => readAdmitted c off w
  | .write off w _ => writeAdmitted c off w
  | .reset => true

/-- A host program that makes no access the engine refuses. -/
def State.politeHost (s : State) : Bool := s.pending.all (HostOp.admitted s.cfg)

/-- `t` differs from `s` in memory and STATUS at most: every other register, the parameters and the bus are unchanged. -/
def State.onlyMemoryAndStatus (s t : State) : Prop := t = { s with mem := t.mem, result := t.result, err := t.err }

/-- `t` differs from `s` in memory and in what the model keeps of the bus at most. -/
def State.onlyMemoryAndBus (s t : State) : Prop := t = { s with mem := t.mem, pending := t.pending, resp := t.resp }

/-- `t` is `s` after an access was taken off the list and answered with `r`, with nothing else changed. -/
def State.answered (s : State) (rest : List HostOp) (r : BusResponse) : State := (s.setPending rest).respond r

/-- The state whose next access is a write of `w` to CMD, seen by the command: the access taken off the list and answered. -/
def State.afterCommandWrite (s : State) (rest : List HostOp) (w : Word) : State :=
  (s.answered rest .written).setCmd w

/-- The commands of a list one after the other, stopping where one does not answer a next state. -/
def execAll (is : List Instr) (s : State) : Host.Outcome State Fault Refusal :=
  match is with
  | [] => .next s
  | i :: rest =>
    match exec i s with
    | .next t => execAll rest t
    | .fault r => .fault r
    | .refused r => .refused r

/-- Character `col` of line `row` of a mask text whose lines end in 0x0A, both counted from 0 (42_mask.md R77). -/
def textChar (text : List Nat) (row col : Nat) : Option Nat :=
  match text with
  | [] => none
  | ch :: rest =>
    if ch = 0x0A then (if row = 0 then none else textChar rest (row - 1) col)
    else if row = 0 then (if col = 0 then some ch else textChar rest 0 (col - 1))
    else textChar rest row col

end Sys2Proof.Machine
end

