-- ==== Sys2Proof/Certificates/Slice0/Obligations.lean ====
section
/-! DEFINITION. The statements about the model, from the numbered rules of spec/. In every statement `exec i s = .next u` says that command
`i` completes; no statement rests on a value that a parameter or a draw has. -/

open Sys2Proof Sys2Proof.Machine

/-! ## Encoding (30_encoding.md) -/

/-- 30_encoding.md R42 to R46: no bit of an encoding is dropped. -/
def Obligations.DecodeOfEncodeGivesTheCommand : Prop :=
  ∀ i : Instr, i.wellFormed = true → decode (encode i) = .ok i

/-- 30_encoding.md R42, R46: each legal word is the word of one command, and that command is well-formed. -/
def Obligations.LegalWordIsTheWordOfItsCommand : Prop :=
  ∀ (w : Word) (i : Instr), decode w = .ok i → i.wellFormed = true ∧ encode i = w

/-- The table of fields of 30_encoding.md R46. -/
def Sys2Proof.legalByFields (w : Word) : Prop :=
  let f := fieldsOf w
  f.rsv0 = 0 ∧ f.rsv1 = 0 ∧ f.rsv2 = 0 ∧
    ((f.opc ∈ [0x00#8, 0x05#8, 0x06#8, 0x08#8, 0x09#8] ∧ f.tgt = 0 ∧ f.size = 0 ∧ f.imm8 = 0) ∨
      (f.opc ∈ [0x01#8, 0x02#8, 0x03#8] ∧ f.tgt ≠ 3 ∧ f.size = 0 ∧ f.imm8 = 0) ∨
      (f.opc = 0x04#8 ∧ f.tgt ≠ 3) ∨
      (f.opc = 0x07#8 ∧ f.tgt = 0 ∧ f.size = 0))

/-- The match and mask pairs of 30_encoding.md R46, and whether the row is a drawing command. -/
def Sys2Proof.matchRows : List (Word × Word × Bool) :=
  [(0x00000000, 0xFFFFFFFF, false), (0x00000001, 0xFFFFFCFF, true), (0x00000002, 0xFFFFFCFF, true), (0x00000003, 0xFFFFFCFF, true),
    (0x00000004, 0xFF008CFF, true)] ++
  [(0x00000005, 0xFFFFFFFF, false), (0x00000006, 0xFFFFFFFF, false), (0x00000007, 0xFF00FFFF, false), (0x00000008, 0xFFFFFFFF, false),
    (0x00000009, 0xFFFFFFFF, false)]

/-- 30_encoding.md R46: `w & mask = match` for a row, and TGT ≠ 3 for a drawing command. -/
def Sys2Proof.legalByTable (w : Word) : Prop :=
  ∃ row ∈ matchRows, w &&& row.2.1 = row.1 ∧ (row.2.2 = true → w.extractLsb' 8 2 ≠ 3)

/-- 30_encoding.md R46: the two tables say the same, the decoder accepts exactly their words, and any other word finishes ERR_ILLEGAL and
changes nothing else but CMD. -/
def Obligations.LegalWordsAreThoseOfTheTables : Prop :=
  ∀ w : Word, ((∃ i, decode w = .ok i) ↔ legalByFields w) ∧ (legalByFields w ↔ legalByTable w) ∧
    (¬ legalByFields w → ∀ s, commandCycle w s = .next { s with cmd := w, result := .errIllegal, err := true })

/-- 95_test_vectors.md 2.1 and 30_encoding.md R46: words written out from the spec's encodings. -/
def Obligations.SpecWordsDecodeAsListed : Prop :=
  decode 0x00000000 = .ok .nop ∧ decode 0x00000101 = .ok (.fill .andm) ∧ decode 0x00000202 = .ok (.erase .orm) ∧
  decode 0x00000003 = .ok (.copy .fb) ∧ decode 0x00412104 = .ok (.glyph .andm 2 65) ∧ decode 0x00000005 = .ok .composite ∧
  decode 0x00000006 = .ok .maskinit ∧ decode 0x002B0007 = .ok (.maskchar 0x2B) ∧ decode 0x00000008 = .ok .color12 ∧
  decode 0x00000009 = .ok .encode ∧ decode 0x00000301 = .error .illegalTarget ∧ decode 0x00008004 = .error .reservedField ∧
  decode 0x0000000A = .error .reservedOpcode ∧ decode 0x00001001 = .error .illegalSize ∧ decode 0x00010001 = .error .illegalImm

/-! ## The command cycle (40_command_cycle.md) -/

/-- 40_command_cycle.md R51: a write of `w` to CMD stores `w`, then executes the command `w` decodes to, or finishes ERR_ILLEGAL. The access is
taken off the list and answered (the model's own record of the bus, log 3 and log 4). -/
def Obligations.StepRunsTheDecodedCommand : Prop :=
  ∀ (s : State) (rest : List HostOp) (w : Word), s.pending = commandWrite w :: rest →
    (∀ i, decode w = .ok i → step s = exec i (s.afterCommandWrite rest w)) ∧
    (∀ e, decode w = .error e → step s = .next ((s.afterCommandWrite rest w).finish .errIllegal))

/-- 30_encoding.md R47: every word performs its command or finishes ERR_ILLEGAL with no other effect; a reserved opcode always the second;
NOP is one word. -/
def Obligations.EveryWordPerformsOrIsIllegal : Prop :=
  ∀ (w : Word) (s : State) (rest : List HostOp), s.pending = commandWrite w :: rest →
    ((∃ i u, decode w = .ok i ∧ exec i (s.afterCommandWrite rest w) = .next u ∧ step s = .next u) ∨
      ((∃ e, decode w = .error e) ∧
        step s = .next { s with pending := rest, resp := .written, cmd := w, result := .errIllegal, err := true })) ∧
    (0x0A ≤ (w.extractLsb' 0 8).toNat → ∃ e, decode w = .error e) ∧
    (decode w = .ok .nop ↔ w = 0)

/-- 40_command_cycle.md R53: what `finish` writes, and that every command, legal or not, ends with one finish of a state whose STATUS is
still that before the command. -/
def Obligations.FinishSetsErrFromTheCode : Prop :=
  (∀ (code : ResultCode) (s : State), (s.finish code).result = code ∧
    (2 ≤ code.code.toNat → (s.finish code).err = true) ∧ (code.code.toNat < 2 → (s.finish code).err = s.err)) ∧
  ∀ (w : Word) (s : State), ∃ (v : State) (code : ResultCode), commandCycle w s = .next (v.finish code) ∧
    v.result = s.result ∧ v.err = s.err

/-- 40_command_cycle.md R54: no command writes ARG0 to ARG5 or CMD; nor the parameters, the draws or the bus (log 1 to log 4). -/
def Obligations.CommandsKeepOperandsAndCmd : Prop :=
  ∀ (i : Instr) (s : State), ∃ u, exec i s = .next u ∧ u.args = s.args ∧ u.cmd = s.cmd ∧ u.cfg = s.cfg ∧ u.draws = s.draws ∧
    u.resets = s.resets ∧ u.pending = s.pending ∧ u.resp = s.resp

/-- 40_command_cycle.md R52, 60_exceptions.md R94: a command with a code other than OK changes nothing but STATUS (and CMD, which the
cycle wrote before it). -/
def Obligations.CommandNotOkChangesStatusOnly : Prop :=
  ∀ (i : Instr) (s : State), ∃ u, exec i s = .next u ∧ (u.result ≠ .ok → u = s.finish u.result)

/-- 60_exceptions.md R95, the row of FILL and ERASE: after normalising, x1 < 0 or x0 > 127 or y1 < 0 or y0 > 63. -/
abbrev Sys2Proof.Machine.rectOutside (s : State) : Prop :=
  max (s.signedArg 0) (s.signedArg 2) < 0 ∨ 127 < min (s.signedArg 0) (s.signedArg 2) ∨
  max (s.signedArg 1) (s.signedArg 3) < 0 ∨ 63 < min (s.signedArg 1) (s.signedArg 3)

/-- 60_exceptions.md R95, the row of COPY: the clipped source range of 41_blit.md R66 is empty on an axis, columns or stripes. -/
abbrev Sys2Proof.Machine.copySourceEmpty (s : State) : Prop :=
  min (max (s.signedArg 0) (s.signedArg 2)) (min 127 (127 - s.signedArg 4)) <
    max (min (s.signedArg 0) (s.signedArg 2)) (max 0 (-(s.signedArg 4))) ∨
  min (max (s.signedArg 1 / 8) (s.signedArg 3 / 8)) (min 7 (7 - s.signedArg 5 / 8)) <
    max (min (s.signedArg 1 / 8) (s.signedArg 3 / 8)) (max 0 (-(s.signedArg 5 / 8)))

/-- 60_exceptions.md R95, the row of GLYPH: the size is not 1 to 4, or the glyph does not fit in the grid. -/
abbrev Sys2Proof.Machine.glyphDoesNotFit (size : Nat) (s : State) : Prop :=
  ¬ (1 ≤ size ∧ size ≤ 4) ∨ s.signedArg 0 < 0 ∨ s.signedArg 1 < 0 ∨ 64 - 8 * (size : Int) < s.signedArg 1 ∨
    128 - (s.cfg.glyphWidth size : Int) < s.signedArg 0

/-- The result code of a command, from the operand registers and the parameters: the causes of 60_exceptions.md R94, with the rejections of R95
and the order of checks of R97. -/
def Sys2Proof.Machine.resultCodeOf (i : Instr) (s : State) : ResultCode :=
  match i with
  | .nop => .ok
  | .fill _ => if rectOutside s then .rejected else .ok
  | .erase _ => if rectOutside s then .rejected else .ok
  | .copy _ => if copySourceEmpty s then .rejected else .ok
  | .glyph _ size _ => if glyphDoesNotFit size s then .rejected else .ok
  | .composite => .ok
  | .maskinit => .ok
  | .maskchar _ => .ok
  | .color12 => if s.cfg.maxLeds ≤ s.unsignedArg 0 then .errRange else .ok
  | .encode =>
    if s.cfg.maxLeds < s.unsignedArg 0 then .errRange
    else if 0 < s.unsignedArg 0 ∧ s.unsignedArg 1 = 0 then .errNocolor else .ok

/-- The result code of a CMD write: ERR_ILLEGAL for a word that is no legal command (60_exceptions.md R94, R97). -/
def Sys2Proof.Machine.resultCodeOfWord (w : Word) (s : State) : ResultCode :=
  match decode w with
  | .ok i => resultCodeOf i s
  | .error _ => .errIllegal

/-- 60_exceptions.md R94, R95: the numbers of the codes, which of them set ERR, which command raises which and under what condition, and that a
code other than OK leaves everything but CMD and STATUS. -/
def Obligations.ResultCodesOfEachCommand : Prop :=
  (ResultCode.ok.code = 0 ∧ ResultCode.rejected.code = 1 ∧ ResultCode.errIllegal.code = 2 ∧ ResultCode.errNocolor.code = 3 ∧
    ResultCode.errRange.code = 4) ∧
  (∀ code : ResultCode, code.code.toNat ≤ 4 ∧
    (code.setsErr = true ↔ code ∈ [ResultCode.errIllegal, ResultCode.errNocolor, ResultCode.errRange])) ∧
  (∀ (i : Instr) (s : State), ∃ u, exec i s = .next u ∧ u.result = resultCodeOf i s) ∧
  (∀ (w : Word) (s : State), ∃ u, commandCycle w s = .next u ∧ u.result = resultCodeOfWord w s ∧
    (u.result = .errIllegal ↔ ∃ e, decode w = .error e) ∧ (u.result ≠ .ok → u = (s.setCmd w).finish u.result))

/-- 30_encoding.md R44, 00_scope.md R8: a signed operand is the two's-complement reading of the 16 bits of its register, an unsigned one the plain
reading; rgb12 is the low 12 bits of ARG1. -/
def Obligations.OperandsAreReadAsTheTableSays : Prop :=
  ∀ (s : State) (n : Fin 6), s.unsignedArg n = s.args[n].toNat ∧
    s.signedArg n = (if s.args[n].toNat < 32768 then (s.args[n].toNat : Int) else s.args[n].toNat - 65536) ∧
    s.rgb12.toNat = s.args[1].toNat % 4096

/-- 40_command_cycle.md R58: NOP leaves RESULT = OK, ERR as it was, and everything else as it was. -/
def Obligations.NopOnlyClearsResult : Prop :=
  ∀ s : State, exec .nop s = .next { s with result := .ok }

/-! ## BLIT (41_blit.md) -/

/-- 41_blit.md R60: when a rectangle is rejected, and the clipped corners otherwise. -/
def Obligations.RectangleIsNormalisedAndClipped : Prop :=
  ∀ x0 y0 x1 y1 : Int,
    (rectClip x0 y0 x1 y1 = none ↔ max x0 x1 < 0 ∨ 127 < min x0 x1 ∨ max y0 y1 < 0 ∨ 63 < min y0 y1) ∧
    ∀ r, rectClip x0 y0 x1 y1 = some r →
      (r.x0 : Int) = max (min x0 x1) 0 ∧ (r.y0 : Int) = max (min y0 y1) 0 ∧
      (r.x1 : Int) = min (max x0 x1) 127 ∧ (r.y1 : Int) = min (max y0 y1) 63 ∧
      r.x0 ≤ r.x1 ∧ r.x1 ≤ 127 ∧ r.y0 ≤ r.y1 ∧ r.y1 ≤ 63

/-- 41_blit.md R61: bits lo to hi of a stripe mask, and the rows of a rectangle in the row mask of a stripe it touches. -/
def Obligations.MasksAreTheTouchedBits : Prop :=
  (∀ lo hi b : Nat, lo ≤ hi → hi ≤ 7 → b < 8 → (stripeMask lo hi).getLsbD b = decide (lo ≤ b ∧ b ≤ hi)) ∧
  (∀ st y0 y1 b : Nat, y0 ≤ y1 → y1 ≤ 63 → y0 / 8 ≤ st → st ≤ y1 / 8 → b < 8 →
    (rowMask st y0 y1).getLsbD b = decide (y0 ≤ 8 * st + b ∧ 8 * st + b ≤ y1))

/-- 41_blit.md R64: the pixels of the clipped rectangle are set (FILL) or clear (ERASE) in the target plane, every other bit of every plane
is unchanged. -/
def Obligations.FillSetsAndEraseClearsThePixels : Prop :=
  ∀ (t : Target) (s : State) (r : Rect),
    rectClip (s.signedArg 0) (s.signedArg 1) (s.signedArg 2) (s.signedArg 3) = some r →
    (∃ u, exec (.fill t) s = .next u ∧ u.result = .ok ∧ ∀ (p : Plane) (x y : Nat), x < 128 → y < 64 →
      u.pixel p x y = if p = targetPlane t ∧ (r.x0 ≤ x ∧ x ≤ r.x1) ∧ r.y0 ≤ y ∧ y ≤ r.y1 then true else s.pixel p x y) ∧
    (∃ u, exec (.erase t) s = .next u ∧ u.result = .ok ∧ ∀ (p : Plane) (x y : Nat), x < 128 → y < 64 →
      u.pixel p x y = if p = targetPlane t ∧ (r.x0 ≤ x ∧ x ≤ r.x1) ∧ r.y0 ≤ y ∧ y ≤ r.y1 then false else s.pixel p x y)

/-- The frame of FILL and ERASE: memory outside the bytes of the clipped rectangle is unchanged (all of memory when rejected), and so is
everything else but STATUS.RESULT. -/
def Obligations.FillAndEraseFrame : Prop :=
  ∀ (t : Target) (s : State), ∀ i ∈ [Instr.fill t, Instr.erase t], ∃ u, exec i s = .next u ∧ s.onlyMemoryAndStatus u ∧ u.err = s.err ∧
    ∀ a : Nat, (∀ r, s.rectArgs = some r → ¬ inRect (targetPlane t) (r.y0 / 8) (r.y1 / 8) r.x0 r.x1 a) → u.byte a = s.byte a

/-- 95_test_vectors.md L1-1 as corrected in 90_conflicts.md C1, and L1-2: FILL then ERASE of a rectangle leaves its pixels clear, ERASE then
FILL leaves them set, and either pair leaves every other pixel as it was. -/
def Obligations.FillThenEraseAndEraseThenFill : Prop :=
  ∀ (t : Target) (s : State) (r : Rect), s.rectArgs = some r →
    (∃ u, execAll [.fill t, .erase t] s = .next u ∧ ∀ (p : Plane) (x y : Nat), x < 128 → y < 64 →
      u.pixel p x y = if p = targetPlane t ∧ (r.x0 ≤ x ∧ x ≤ r.x1) ∧ r.y0 ≤ y ∧ y ≤ r.y1 then false else s.pixel p x y) ∧
    (∃ u, execAll [.erase t, .fill t] s = .next u ∧ ∀ (p : Plane) (x y : Nat), x < 128 → y < 64 →
      u.pixel p x y = if p = targetPlane t ∧ (r.x0 ≤ x ∧ x ≤ r.x1) ∧ r.y0 ≤ y ∧ y ≤ r.y1 then true else s.pixel p x y)

/-- 60_exceptions.md R95: exactly when FILL, ERASE, COPY and GLYPH are rejected, from the operand registers; a rejection changes nothing
but RESULT and is no error. -/
def Obligations.RejectionConditions : Prop :=
  ∀ (t : Target) (s : State),
    (∀ i ∈ [Instr.fill t, Instr.erase t], ∃ u, exec i s = .next u ∧ (u.result = .rejected ↔ rectOutside s) ∧
      (u.result = .rejected → u = { s with result := .rejected })) ∧
    (∃ u, exec (.copy t) s = .next u ∧ (u.result = .rejected ↔ copySourceEmpty s) ∧
      (u.result = .rejected → u = { s with result := .rejected })) ∧
    (∀ size c : Nat, ∃ u, exec (.glyph t size c) s = .next u ∧ (u.result = .rejected ↔ glyphDoesNotFit size s) ∧
      (u.result = .rejected → u = { s with result := .rejected }))

/-- 41_blit.md R65: the stripe of a row coordinate or offset rounds toward minus infinity, and masking is `& ~7`. -/
def Obligations.StripeAlignmentIsFloor : Prop :=
  ∀ y : Int, maskLow3 y ≤ y ∧ y < maskLow3 y + 8 ∧ maskLow3 y % 8 = 0 ∧ 8 * stripeOf y = maskLow3 y

/-- 41_blit.md R66: when COPY is rejected, the clipped source range otherwise, and which source byte a destination byte has; both lie in the
plane. -/
def Obligations.CopyIsClippedAtTheSource : Prop :=
  ∀ x0 y0 x1 y1 xOff yOff : Int,
    (copyClip x0 y0 x1 y1 xOff yOff = none ↔
      min (max x0 x1) (min 127 (127 - xOff)) < max (min x0 x1) (max 0 (-xOff)) ∨
      min (max (stripeOf y0) (stripeOf y1)) (min 7 (7 - stripeOf yOff)) <
        max (min (stripeOf y0) (stripeOf y1)) (max 0 (-stripeOf yOff))) ∧
    ∀ w, copyClip x0 y0 x1 y1 xOff yOff = some w →
    w.ds = stripeOf yOff ∧ w.xOff = xOff ∧
    w.cx0 = max (min x0 x1) (max 0 (-xOff)) ∧ w.cx1 = min (max x0 x1) (min 127 (127 - xOff)) ∧
    w.cs0 = max (min (stripeOf y0) (stripeOf y1)) (max 0 (-stripeOf yOff)) ∧
    w.cs1 = min (max (stripeOf y0) (stripeOf y1)) (min 7 (7 - stripeOf yOff)) ∧
    0 ≤ w.cs0 ∧ w.cs0 ≤ w.cs1 ∧ w.cs1 ≤ 7 ∧ 0 ≤ w.cx0 ∧ w.cx0 ≤ w.cx1 ∧ w.cx1 ≤ 127 ∧
    0 ≤ w.cs0 + w.ds ∧ w.cs1 + w.ds ≤ 7 ∧ 0 ≤ w.cx0 + w.xOff ∧ w.cx1 + w.xOff ≤ 127 ∧
    ∀ ss sx : Nat, w.cs0 ≤ ss ∧ ss ≤ w.cs1 → w.cx0 ≤ sx ∧ sx ≤ w.cx1 →
      w.sourceIndex (ss + w.ds).toNat (sx + w.xOff).toNat = ss * 128 + sx ∧ ss * 128 + sx < 1024 ∧
      (ss + w.ds).toNat * 128 + (sx + w.xOff).toNat < 1024

/-- 41_blit.md R67: every destination byte of COPY receives the value its source byte held before the command, whatever the overlap; every
other byte of memory, and everything else but STATUS.RESULT, is unchanged. -/
def Obligations.CopyMovesTheOldBytes : Prop :=
  ∀ (t : Target) (s : State) (w : CopyWindow), s.copyArgs = some w → ∃ u, exec (.copy t) s = .next u ∧ u.result = .ok ∧
    (∀ ss sx : Nat, w.cs0 ≤ ss ∧ ss ≤ w.cs1 → w.cx0 ≤ sx ∧ sx ≤ w.cx1 →
      u.planeByte (targetPlane t) ((ss + w.ds) * 128 + (sx + w.xOff)).toNat = s.planeByte (targetPlane t) (ss * 128 + sx)) ∧
    (∀ a : Nat, ¬ inRect (targetPlane t) (w.cs0 + w.ds).toNat (w.cs1 + w.ds).toNat (w.cx0 + w.xOff).toNat (w.cx1 + w.xOff).toNat a →
      u.byte a = s.byte a) ∧
    s.onlyMemoryAndStatus u ∧ u.err = s.err

/-- 95_test_vectors.md L1-3, 41_blit.md R68: COPY with xOff = 0 and 0 ≤ yOff ≤ 7 leaves a memory in canonical form the same list; an x offset of
128 or more, or −128 or less, is rejected. -/
def Obligations.CopyByNothingChangesNothing : Prop :=
  ∀ (t : Target) (s : State),
    (Memory.wf s.unwritten s.mem → s.signedArg 4 = 0 → 0 ≤ s.signedArg 5 ∧ s.signedArg 5 ≤ 7 →
      ∃ u, exec (.copy t) s = .next u ∧ u.mem = s.mem) ∧
    (128 ≤ s.signedArg 4 ∨ s.signedArg 4 ≤ -128 → exec (.copy t) s = .next { s with result := .rejected })

/-- 41_blit.md R69, R70, R71: GLYPH tests the size, then the fit; it draws glyph c − 32 for a printable code and glyph 0 otherwise; the font
bytes replace the plane's bytes from stripe y >> 3 on, and nothing else changes. -/
def Obligations.GlyphReplacesBytesWithFontBytes : Prop :=
  ∀ (t : Target) (size c : Nat) (s : State) (x y : Nat),
    (¬ (1 ≤ size ∧ size ≤ 4) → exec (.glyph t size c) s = .next { s with result := .rejected }) ∧
    (s.signedArg 0 < 0 ∨ s.signedArg 1 < 0 ∨ 64 - 8 * (size : Int) < s.signedArg 1 ∨
        128 - (s.cfg.glyphWidth size : Int) < s.signedArg 0 →
      exec (.glyph t size c) s = .next { s with result := .rejected }) ∧
    (1 ≤ size → size ≤ 4 → s.signedArg 0 = x → s.signedArg 1 = y → y + 8 * size ≤ 64 → x + s.cfg.glyphWidth size ≤ 128 →
      ∃ u, exec (.glyph t size c) s = .next u ∧ u.result = .ok ∧ u.err = s.err ∧ s.onlyMemoryAndStatus u ∧
        (∀ r k : Nat, r < size → k < s.cfg.glyphWidth size →
          u.planeByte (targetPlane t) ((y / 8 + r) * 128 + x + k) =
            s.cfg.fontByte size (if s.cfg.glyphLoCode ≤ c ∧ c ≤ 126 then c - 32 else 0) r k) ∧
        (∀ a : Nat, ¬ inRect (targetPlane t) (y / 8) (y / 8 + size - 1) x (x + s.cfg.glyphWidth size - 1) a → u.byte a = s.byte a))

/-! ## MASK (42_mask.md) -/

/-- 42_mask.md R75: what COMPOSITE makes of a pixel, from the three planes; every byte outside OUT, and everything else but
STATUS.RESULT, is unchanged. -/
def Obligations.CompositeGivesEachPixel : Prop :=
  ∀ s : State, ∃ u, exec .composite s = .next u ∧ u.result = .ok ∧ u.err = s.err ∧ s.onlyMemoryAndStatus u ∧
    (∀ x y : Nat, x < 128 → y < 64 →
      (s.pixel .andm x y = false → u.pixel .out x y = false) ∧
      (s.pixel .andm x y = true → s.pixel .orm x y = true → u.pixel .out x y = true) ∧
      (s.pixel .andm x y = true → s.pixel .orm x y = false → u.pixel .out x y = s.pixel .fb x y)) ∧
    (∀ a : Nat, ¬ (Plane.out.base ≤ a ∧ a < Plane.out.base + 1024) → u.byte a = s.byte a)

/-- 42_mask.md R74: OUT depends only on FB, ANDM and ORM as they are at the command, never on an earlier OUT; running COMPOSITE twice gives
the memory of running it once. -/
def Obligations.CompositeDependsOnThreePlanes : Prop :=
  (∀ s t : State, (∀ p ∈ [Plane.fb, Plane.andm, Plane.orm], ∀ i, i < 1024 → s.planeByte p i = t.planeByte p i) →
    ∃ u v, exec .composite s = .next u ∧ exec .composite t = .next v ∧ ∀ i, i < 1024 → u.planeByte .out i = v.planeByte .out i) ∧
  (∀ s : State, Memory.wf s.unwritten s.mem →
    ∃ u v, exec .composite s = .next u ∧ exec .composite u = .next v ∧ v.mem = u.mem)

/-- 42_mask.md R76: MASKINIT loads the default masks and rewinds the cursor; nothing else but STATUS.RESULT changes. -/
def Obligations.MaskinitLoadsTheDefaults : Prop :=
  ∀ s : State, ∃ u, exec .maskinit s = .next u ∧ u.result = .ok ∧ u.err = s.err ∧
    u = { s with mem := u.mem, mcRow := 0, mcCol := 0, result := .ok } ∧
    (∀ i, i < 1024 → u.planeByte .andm i = s.cfg.maskDefaultAnd i ∧ u.planeByte .orm i = s.cfg.maskDefaultOr i) ∧
    (∀ a : Nat, ¬ (Plane.andm.base ≤ a ∧ a < Plane.orm.base + 1024) → u.byte a = s.byte a)

/-- 42_mask.md R78: a line end moves the cursor to column 0 of the next row, saturating at row 64, and changes nothing else but RESULT; at row
64 every character leaves the planes, and the row. -/
def Obligations.LineEndMovesToTheNextRow : Prop :=
  ∀ s : State, exec (.maskchar 0x0A) s = .next { s with mcRow := min (s.mcRow + 1) 64, mcCol := 0, result := .ok } ∧
    (s.mcRow = 64 → ∀ ch, ∃ u, exec (.maskchar ch) s = .next u ∧ u.mem = s.mem ∧ u.mcRow = 64)

/-- 42_mask.md R79: a character other than a line end acts on the pixel under the cursor if that is in the plane, 'X' clearing ANDM, '+' setting
ORM, and advances the column, saturating at 128; every other pixel, byte and register but RESULT is unchanged. -/
def Obligations.MaskCharacterMarksThePixelUnderTheCursor : Prop :=
  ∀ (ch : Nat) (s : State), ch ≠ 0x0A → ∃ u, exec (.maskchar ch) s = .next u ∧ u.result = .ok ∧
    u = { s with mem := u.mem, mcCol := min (s.mcCol + 1) 128, result := .ok } ∧
    (∀ (p : Plane) (x y : Nat), x < 128 → y < 64 →
      u.pixel p x y =
        if (x = s.mcCol ∧ y = s.mcRow) ∧ p = .andm ∧ ch = 0x58 then false
        else if (x = s.mcCol ∧ y = s.mcRow) ∧ p = .orm ∧ ch = 0x2B then true
        else s.pixel p x y) ∧
    (∀ a : Nat,
      ¬ ((s.mcRow < 64 ∧ s.mcCol < 128) ∧
        ((ch = 0x58 ∧ a = Plane.andm.base + s.cursorIndex) ∨ (ch = 0x2B ∧ a = Plane.orm.base + s.cursorIndex))) →
      u.byte a = s.byte a)

/-- 42_mask.md R77: MASKINIT and then a whole mask text, one MASKCHAR a character: pixel (x, y) is character x of line y; 'X' clears its ANDM
bit, '+' sets its ORM bit, anything else, and a character that is not there, leaves the default; characters past column 127 and lines past
the 64th mark nothing; FB and OUT are unchanged. -/
def Obligations.MaskTextIsAppliedLineByLine : Prop :=
  ∀ (text : List Nat) (s : State), ∃ u, execAll (.maskinit :: text.map .maskchar) s = .next u ∧
    (∀ x y : Nat, x < 128 → y < 64 →
      u.pixel .andm x y = (if textChar text y x = some 0x58 then false
        else (s.cfg.maskDefaultAnd (y / 8 * 128 + x)).getLsbD (y % 8)) ∧
      u.pixel .orm x y = (if textChar text y x = some 0x2B then true
        else (s.cfg.maskDefaultOr (y / 8 * 128 + x)).getLsbD (y % 8))) ∧
    (∀ i, i < 1024 → u.planeByte .fb i = s.planeByte .fb i ∧ u.planeByte .out i = s.planeByte .out i)

/-- 41_blit.md R73: bit j of every plane byte after a BLIT or MASK command depends only on bit j of the plane bytes before it (and on the
parameters, the operand registers and the cursor). -/
def Obligations.PlaneBitsDoNotMix : Prop :=
  ∀ (t : Target) (size c : Nat),
    ∀ i ∈ [Instr.fill t, Instr.erase t, Instr.copy t, Instr.glyph t size c, Instr.composite, Instr.maskinit, Instr.maskchar c],
    ∀ (s₁ s₂ : State) (j : Nat),
      s₁.cfg = s₂.cfg → s₁.args = s₂.args → s₁.mcRow = s₂.mcRow → s₁.mcCol = s₂.mcCol →
      (∀ (p : Plane) (k : Nat), k < 1024 → (s₁.planeByte p k).getLsbD j = (s₂.planeByte p k).getLsbD j) →
      ∃ u₁ u₂, exec i s₁ = .next u₁ ∧ exec i s₂ = .next u₂ ∧
        ∀ (p : Plane) (k : Nat), k < 1024 → (u₁.planeByte p k).getLsbD j = (u₂.planeByte p k).getLsbD j

/-! ## ENC (43_ws2812.md) -/

/-- 43_ws2812.md R82: COLOR12 doubles the three digits of ARG1[11:0] into the entry ARG0, or finishes ERR_RANGE and writes nothing; it
changes nothing else. -/
def Obligations.Color12DoublesTheDigits : Prop :=
  ∀ s : State,
    (s.cfg.maxLeds ≤ s.unsignedArg 0 → exec .color12 s = .next { s with result := .errRange, err := true }) ∧
    (s.unsignedArg 0 < s.cfg.maxLeds → ∃ u, exec .color12 s = .next u ∧ u.result = .ok ∧ u.err = s.err ∧ s.onlyMemoryAndStatus u ∧
      (u.color (s.unsignedArg 0)).toNat =
        0x110000 * (s.unsignedArg 1 / 256 % 16) + 0x1100 * (s.unsignedArg 1 / 16 % 16) + 0x11 * (s.unsignedArg 1 % 16) ∧
      ∀ a : Nat, ¬ (colorBase + 4 * s.unsignedArg 0 ≤ a ∧ a < colorBase + 4 * s.unsignedArg 0 + 4) → u.byte a = s.byte a)

/-- 43_ws2812.md R84: the code table, and that the high nibble stands for the group's high bit and the low nibble for its low bit, 0x2 for 0
and 0x6 for 1. -/
def Obligations.CodeBytesSpellTheGroupBits : Prop :=
  (codeByte 0b00 = 0x22 ∧ codeByte 0b01 = 0x26 ∧ codeByte 0b10 = 0x62 ∧ codeByte 0b11 = 0x66) ∧
  ∀ v : BitVec 2, (codeByte v).extractLsb' 4 4 = (if v.getLsbD 1 then 0x6#4 else 0x2#4) ∧
    (codeByte v).extractLsb' 0 4 = (if v.getLsbD 0 then 0x6#4 else 0x2#4)

/-- 43_ws2812.md R86: the entries from S to C − 1 repeat the S supplied ones, every other entry is unchanged; a nonzero count with no supplied
colour is an error. -/
def Obligations.EncodeFillsTheColoursCyclically : Prop :=
  ∀ s : State, s.unsignedArg 0 ≤ s.cfg.maxLeds →
    (0 < s.unsignedArg 0 → s.unsignedArg 1 = 0 → exec .encode s = .next { s with result := .errNocolor, err := true }) ∧
    (s.unsignedArg 0 = 0 ∨ 0 < s.unsignedArg 1 → ∃ u, exec .encode s = .next u ∧ u.result = .ok ∧
      (∀ j : Nat, s.unsignedArg 1 ≤ j ∧ j < s.unsignedArg 0 → u.color j = s.color (j % s.unsignedArg 1)) ∧
      (∀ j : Nat, j < s.cfg.maxLeds → ¬ (s.unsignedArg 1 ≤ j ∧ j < s.unsignedArg 0) → u.color j = s.color j))

/-- 43_ws2812.md R87, with the wire words of R83 and the group order of R85: the bytes of the LED buffer after a successful ENCODE. -/
def Obligations.EncodeLaysOutTheFrame : Prop :=
  ∀ s : State, s.unsignedArg 0 ≤ s.cfg.maxLeds → (s.unsignedArg 0 = 0 ∨ 0 < s.unsignedArg 1) →
    ∃ u, exec .encode s = .next u ∧ u.result = .ok ∧
      (∀ k, k < 4 → u.ledByte k = 0 ∧ u.ledByte (12 * s.unsignedArg 0 + 4 + k) = 0) ∧
      (∀ i k, i < s.unsignedArg 0 → k < 12 →
        u.ledByte (4 + 12 * i + k) =
          codeByte (((u.color i).extractLsb' 8 8 ++ (u.color i).extractLsb' 16 8 ++ (u.color i).extractLsb' 0 8).extractLsb'
            (22 - 2 * k) 2)) ∧
      (∀ k, 12 * s.unsignedArg 0 + 8 ≤ k → u.ledByte k = s.ledByte k)

/-- 43_ws2812.md R88: a successful ENCODE sets LEDLEN to 12·C + 8, a failed one leaves it (and, by R97, ERR_RANGE comes before
ERR_NOCOLOR). -/
def Obligations.EncodeSetsTheFrameLength : Prop :=
  ∀ s : State, ∃ u, exec .encode s = .next u ∧
    (u.result = .ok → u.ledlen.toNat = 12 * s.unsignedArg 0 + 8 ∧ u.ledlenWord.toNat = 12 * s.unsignedArg 0 + 8) ∧
    (u.result ≠ .ok → u.ledlen = s.ledlen) ∧
    (s.cfg.maxLeds < s.unsignedArg 0 → u = { s with result := .errRange, err := true })

/-- The frame of ENCODE: outside the frame's bytes and the filled colour entries every byte is unchanged, and so is everything else but LEDLEN
and STATUS; ENCODE fills no entry and stores no frame where it fails. -/
def Obligations.EncodeFrame : Prop :=
  ∀ s : State, ∃ u, exec .encode s = .next u ∧
    u = { s with mem := u.mem, ledlen := u.ledlen, result := u.result, err := u.err } ∧
    (∀ a : Nat,
      ¬ (ledBase ≤ a ∧ a < ledBase + (12 * s.unsignedArg 0 + 8)) →
      ¬ (colorBase + 4 * s.unsignedArg 1 ≤ a ∧ a < colorBase + 4 * s.unsignedArg 0) → u.byte a = s.byte a) ∧
    (u.result ≠ .ok → u.mem = s.mem)

/-- 43_ws2812.md R91: on the wire, after a successful ENCODE, data bit j of LED i takes the four bit-times low, bit, high, low: one high bit-time
for a 0 bit and two for a 1 bit, the bits being those of {G, R, B}, most significant first; the stream has 32 low bit-times at each end;
and the times at 3.125 MHz. The engine has no serialiser (R90): that the stream and its times are functions of the state, and that times are
whole nanoseconds, is the model's choice (log 13, DESIGN CHOICE). -/
def Obligations.WireCarriesTheColours : Prop :=
  (∀ s : State, s.unsignedArg 0 ≤ s.cfg.maxLeds → (s.unsignedArg 0 = 0 ∨ 0 < s.unsignedArg 1) →
    ∃ u, exec .encode s = .next u ∧ u.wireLength = 96 * s.unsignedArg 0 + 64 ∧
      (∀ n, n < 32 → u.wireBit n = false ∧ u.wireBit (96 * s.unsignedArg 0 + 32 + n) = false) ∧
      ∀ i j, i < s.unsignedArg 0 → j < 24 →
        u.wireBit (dataBitTime i j) = false ∧ u.wireBit (dataBitTime i j + 1) = (wireWord (u.color i)).getLsbD (23 - j) ∧
        u.wireBit (dataBitTime i j + 2) = true ∧ u.wireBit (dataBitTime i j + 3) = false) ∧
  (∀ c : Color, ∀ j, j < 8 → (wireWord c).getLsbD (23 - j) = c.getLsbD (15 - j) ∧
    (wireWord c).getLsbD (15 - j) = c.getLsbD (23 - j) ∧ (wireWord c).getLsbD (7 - j) = c.getLsbD (7 - j)) ∧
  (∀ c : Config, c.spiHz = 3125000 → wireNanoseconds c 1 = 320 ∧ wireNanoseconds c 4 = 1280 ∧
    wireNanoseconds c (highBitTimes false) = 320 ∧ wireNanoseconds c (highBitTimes true) = 640 ∧ wireNanoseconds c 32 = 10240)

/-! ## The host bus (20_memory.md, 60_exceptions.md) -/

/-- The offsets of the reserved rows of 20_memory.md R27. -/
def Sys2Proof.Machine.reservedOffset (c : Config) (a : Nat) : Prop :=
  (0x0028 ≤ a ∧ a ≤ 0x03FF) ∨ (0x1400 ≤ a ∧ a ≤ 0x1FFF) ∨ (0x2000 + 4 * c.maxLeds ≤ a ∧ a ≤ 0x3FFF) ∨ 0x4000 + 12 * c.maxLeds + 8 ≤ a

/-- 60_exceptions.md R93 (a), (b) and (d): misaligned, a width other than 4 in the register region or the colour window, or reserved. -/
def Sys2Proof.Machine.refusedAccess (c : Config) (a n : Nat) : Prop :=
  a % n ≠ 0 ∨ (n ≠ 4 ∧ (a < 0x0028 ∨ (0x2000 ≤ a ∧ a < 0x2000 + 4 * c.maxLeds))) ∨ reservedOffset c a

/-- 60_exceptions.md R93 (c): the locations that are read only. -/
def Sys2Proof.Machine.readOnlyOffset (c : Config) (a : Nat) : Prop :=
  (0x0020 ≤ a ∧ a < 0x0028) ∨ (0x1000 ≤ a ∧ a < 0x1400) ∨ (0x4000 ≤ a ∧ a < 0x4000 + 12 * c.maxLeds + 8)

/-- 60_exceptions.md R93: exactly the accesses (a) to (d) raise BusError; such an access changes no engine state, and a read returns no value.
How the platform reports the error response to the host's software is the parameter BUS_ERROR_RESPONSE (R93); that it has two values, `endsProgram`
giving a fault of the machine and `goesOn` a next state, is the model's choice (log 5, DESIGN CHOICE). -/
def Obligations.RefusedAccessIsABusErrorWithoutEffect : Prop :=
  ∀ (s : State) (rest : List HostOp) (off : BitVec 16) (n : Width) (v : Word) (op : HostOp), s.pending = op :: rest →
    ((op = .read off n ∧ refusedAccess s.cfg off.toNat n.bytes) ∨
      (op = .write off n v ∧ (refusedAccess s.cfg off.toNat n.bytes ∨ readOnlyOffset s.cfg off.toNat)) →
      (s.cfg.busErrorResponse = .endsProgram → step s = .fault (.busError off)) ∧
      (s.cfg.busErrorResponse = .goesOn → step s = .next { s with pending := rest, resp := .error off })) ∧
    (op = .read off n → ¬ refusedAccess s.cfg off.toNat n.bytes → ∃ d, step s = .next (s.answered rest (.data d))) ∧
    (op = .write off n v → ¬ refusedAccess s.cfg off.toNat n.bytes → ¬ readOnlyOffset s.cfg off.toNat →
      ∃ u, step s = .next u ∧ u.resp = .written)

/-- 20_memory.md R35: a read changes nothing but the model's record of the bus, and reading a location again with no write between gives the
same answer. -/
def Obligations.ReadsHaveNoSideEffect : Prop :=
  ∀ (s : State) (rest : List HostOp) (off : BitVec 16) (n : Width), s.pending = .read off n :: .read off n :: rest →
    readAdmitted s.cfg off n = true →
    ∃ d, step s = .next (s.answered (.read off n :: rest) (.data d)) ∧
      step (s.answered (.read off n :: rest) (.data d)) = .next (s.answered rest (.data d))

/-- 20_memory.md R29: the registers. -/
def Obligations.RegisterAccesses : Prop :=
  ∀ (s : State) (rest : List HostOp) (v : Word),
    (∀ n : Fin 6, s.pending = .write (argOffset n) .b4 v :: rest →
      step s = .next { s with pending := rest, resp := .written, args := s.args.set n (v.extractLsb' 0 16) }) ∧
    (∀ n : Fin 6, s.pending = .read (argOffset n) .b4 :: rest → step s = .next (s.answered rest (.data (s.args[n].setWidth 32)))) ∧
    (s.pending = .write 0x0000 .b4 v :: rest → step s = commandCycle v (s.answered rest .written)) ∧
    (s.pending = .read 0x0000 .b4 :: rest → step s = .next (s.answered rest (.data s.cmd))) ∧
    (s.pending = .write 0x0004 .b4 v :: rest →
      step s = .next { s with pending := rest, resp := .written, err := if v.getLsbD 8 then false else s.err }) ∧
    (s.pending = .read 0x0004 .b4 :: rest → step s = .next (s.answered rest (.data s.statusWord)) ∧
      s.statusWord.toNat = s.result.code.toNat + if s.err then 256 else 0) ∧
    (s.pending = .read 0x0020 .b4 :: rest →
      step s = .next (s.answered rest (.data s.ledlenWord)) ∧ s.ledlenWord.toNat = s.ledlen.toNat) ∧
    (s.pending = .read 0x0024 .b4 :: rest → step s = .next (s.answered rest (.data s.maskcurWord)) ∧
      (s.mcRow ≤ 64 → s.mcCol ≤ 128 → s.maskcurWord.toNat = s.mcCol + 65536 * s.mcRow)) ∧
    (∀ off : BitVec 16, off.toNat < 0x0028 → ∀ w : Width, w ≠ .b4 →
      ((s.pending = .read off w :: rest ∨ s.pending = .write off w v :: rest) → step s = (s.setPending rest).busError off)) ∧
    (∀ off ∈ [0x0020#16, 0x0024#16], s.pending = .write off .b4 v :: rest → step s = (s.setPending rest).busError off)

/-- 20_memory.md R30: an aligned access of any width to a plane window reads the bytes, byte i in bits [7:0], or writes them (FB, ANDM, ORM); a
write has no other effect; a write to the OUT window is a bus error. -/
def Obligations.PlaneWindowAccesses : Prop :=
  ∀ (s : State) (rest : List HostOp) (p : Plane) (i : Nat) (n : Width) (v : Word), i < 1024 → i % n.bytes = 0 →
    (s.pending = .read (BitVec.ofNat 16 (p.base + i)) n :: rest → ∃ d, step s = .next (s.answered rest (.data d)) ∧
      ∀ j, j < n.bytes → d.extractLsb' (8 * j) 8 = s.planeByte p (i + j)) ∧
    (p ≠ .out → s.pending = .write (BitVec.ofNat 16 (p.base + i)) n v :: rest → ∃ u, step s = .next u ∧
      u = { s with mem := u.mem, pending := rest, resp := .written } ∧
      (∀ j, j < n.bytes → u.planeByte p (i + j) = v.extractLsb' (8 * j) 8) ∧
      (∀ a : Nat, ¬ (p.base + i ≤ a ∧ a < p.base + i + n.bytes) → u.byte a = s.byte a)) ∧
    (p = .out → s.pending = .write (BitVec.ofNat 16 (p.base + i)) n v :: rest →
      step s = (s.setPending rest).busError (BitVec.ofNat 16 (p.base + i)))

/-- 20_memory.md R31: the colour window. -/
def Obligations.ColourWindowAccesses : Prop :=
  ∀ (s : State) (rest : List HostOp) (j : Nat) (v : Word), j < s.cfg.maxLeds →
    (s.pending = .read (BitVec.ofNat 16 (0x2000 + 4 * j)) .b4 :: rest →
      step s = .next (s.answered rest (.data ((s.color j).setWidth 32)))) ∧
    (s.pending = .write (BitVec.ofNat 16 (0x2000 + 4 * j)) .b4 v :: rest → ∃ u, step s = .next u ∧
      u = { s with mem := u.mem, pending := rest, resp := .written } ∧
      (∀ k, u.color k = if k = j then v.extractLsb' 0 24 else s.color k) ∧
      (∀ a : Nat, ¬ (0x2000 + 4 * j ≤ a ∧ a < 0x2000 + 4 * j + 4) → u.byte a = s.byte a)) ∧
    (∀ n : Width, n ≠ .b4 → ∀ b, b < 4 →
      (s.pending = .read (BitVec.ofNat 16 (0x2000 + 4 * j + b)) n :: rest ∨
        s.pending = .write (BitVec.ofNat 16 (0x2000 + 4 * j + b)) n v :: rest) →
      step s = (s.setPending rest).busError (BitVec.ofNat 16 (0x2000 + 4 * j + b)))

/-- 20_memory.md R32: the LED buffer window. -/
def Obligations.LedWindowAccesses : Prop :=
  ∀ (s : State) (rest : List HostOp) (k : Nat) (n : Width) (v : Word), k < 12 * s.cfg.maxLeds + 8 → k % n.bytes = 0 →
    (s.pending = .read (BitVec.ofNat 16 (0x4000 + k)) n :: rest → ∃ d, step s = .next (s.answered rest (.data d)) ∧
      ∀ j, j < n.bytes → d.extractLsb' (8 * j) 8 = s.ledByte (k + j)) ∧
    (s.pending = .write (BitVec.ofNat 16 (0x4000 + k)) n v :: rest →
      step s = (s.setPending rest).busError (BitVec.ofNat 16 (0x4000 + k)))

/-- 20_memory.md R34: a 16- or 32-bit read of a byte array sees the bytes that 1-byte reads see, the lowest offset in bits [7:0]. -/
def Obligations.WideReadsSeeTheBytes : Prop :=
  ∀ (s : State) (off : BitVec 16) (n : Width), readAdmitted s.cfg off n = true → 0x0400 ≤ off.toNat →
    ¬ (0x2000 ≤ off.toNat ∧ off.toNat < 0x4000) → ∀ j, j < n.bytes →
      readAdmitted s.cfg (off + BitVec.ofNat 16 j) .b1 = true ∧
      (s.readValue (off + BitVec.ofNat 16 j) .b1).extractLsb' 0 8 = (s.readValue off n).extractLsb' (8 * j) 8

/-! ## The whole machine -/

/-- 10_state.md R13, R21, R22: every step keeps the invariant: memory in canonical form, nothing stored outside the engine's arrays, the cursor and
LEDLEN in range. -/
def Obligations.EveryStepKeepsTheInvariant : Prop :=
  ∀ s t : State, s.Inv → step s = .next t → t.Inv

/-- The reset state has the invariant. -/
def Obligations.ResetHasTheInvariant : Prop := State.reset.Inv

/-- 70_reset_and_hazards.md R106: what the reset input leaves, in a run and in the reset state (where `rest` is what the host does next, and the
draw is free); the unspecified bytes are the subject of `UnspecifiedBytesAreFree`. -/
def Obligations.ResetValues : Prop :=
  (∀ (s : State) (rest : List HostOp), s.pending = .reset :: rest → ∃ u, step s = .next u ∧ u.pending = rest ∧ u.cfg = s.cfg ∧
    (∀ n : Fin 6, u.args[n] = 0) ∧ u.cmd = 0 ∧ u.statusWord = 0 ∧ u.ledlen = 0 ∧ u.maskcurWord = 0 ∧ u.mcRow = 0 ∧ u.mcCol = 0 ∧
    ∀ i, i < 1024 → u.planeByte .andm i = s.cfg.maskDefaultAnd i ∧ u.planeByte .orm i = s.cfg.maskDefaultOr i) ∧
  ((∀ n : Fin 6, State.reset.args[n] = 0) ∧ State.reset.cmd = 0 ∧ State.reset.statusWord = 0 ∧ State.reset.ledlen = 0 ∧
    State.reset.maskcurWord = 0 ∧
    ∀ i, i < 1024 → State.reset.planeByte .andm i = State.reset.cfg.maskDefaultAnd i ∧
      State.reset.planeByte .orm i = State.reset.cfg.maskDefaultOr i)

/-- 70_reset_and_hazards.md R107: the draw can give the bytes of FB and OUT, the colours and the LED buffer any contents at all at a reset, and
reading one, written or not, is no fault: a byte read of a plane or of the LED buffer, and a 32-bit read of a colour, answer what is there. That the
draw is a list of cells is the model's choice (log 2, DESIGN CHOICE), and so is that a byte is answered zero-extended (log 11, DEDUCED). -/
def Obligations.UnspecifiedBytesAreFree : Prop :=
  ∀ (c : Config) (n : Nat) (f : Nat → Byte) (g : Nat → Color), ∃ d : List Host.Cell,
    (∀ i, i < 1024 → (State.resetWith c d n).planeByte .fb i = f i ∧ (State.resetWith c d n).planeByte .out i = f (1024 + i)) ∧
    (∀ j, j < c.maxLeds → (State.resetWith c d n).color j = g j) ∧
    (∀ k, k < 12 * c.maxLeds + 8 → (State.resetWith c d n).ledByte k = f (2048 + k)) ∧
    (∀ (s : State) (off : BitVec 16) (rest : List HostOp), s.pending = .read off .b1 :: rest →
      (0x0400 ≤ off.toNat ∧ off.toNat < 0x1400) ∨ (0x4000 ≤ off.toNat ∧ off.toNat < 0x4000 + 12 * s.cfg.maxLeds + 8) →
      step s = .next (s.answered rest (.data ((s.byte off.toNat).setWidth 32)))) ∧
    (∀ (s : State) (j : Nat) (rest : List HostOp), j < s.cfg.maxLeds → s.pending = .read (BitVec.ofNat 16 (0x2000 + 4 * j)) .b4 :: rest →
      step s = .next (s.answered rest (.data ((s.color j).setWidth 32))))

/-- 70_reset_and_hazards.md R106: with no access to come the engine is idle, and a step changes nothing (the model's reading, log 3). -/
def Obligations.IdleEngineDoesNothing : Prop :=
  ∀ s : State, s.pending = [] → step s = .next s

/-- 20_memory.md R37: accesses take effect one at a time in the order given, and no step changes the parameters (log 1, log 10). -/
def Obligations.AccessesAreTakenInOrder : Prop :=
  ∀ s t : State, step s = .next t → t.pending = s.pending.tail ∧ t.cfg = s.cfg

/-- 60_exceptions.md R96: every CMD write overwrites RESULT with its command's own code, whatever RESULT and ERR held; it sets ERR with a code of
2 to 4 and keeps it with OK and REJECTED; ERR is cleared by a write of 1 to STATUS[8] and by a reset, and by nothing else. -/
def Obligations.ErrIsSticky : Prop :=
  (∀ (w : Word) (s : State) (before : ResultCode) (e : Bool), ∃ u, commandCycle w { s with result := before, err := e } = .next u ∧
    u.result = resultCodeOfWord w s ∧ ((resultCodeOfWord w s).code ∈ [2, 3, 4] → u.err = true) ∧
    ((resultCodeOfWord w s).code ∈ [0, 1] → u.err = e)) ∧
  (∀ (s : State) (rest : List HostOp) (v : Word), s.pending = .write 0x0004 .b4 v :: rest → v.getLsbD 8 = true →
    ∃ t, step s = .next t ∧ t.err = false) ∧
  (∀ (s : State) (rest : List HostOp), s.pending = .reset :: rest → ∃ t, step s = .next t ∧ t.err = false) ∧
  (∀ s t : State, step s = .next t → s.err = true → t.err = false →
    ∃ op rest, s.pending = op :: rest ∧ (op = .reset ∨ ∃ v : Word, op = .write 0x0004 .b4 v ∧ v.getLsbD 8 = true))

/-- 70_reset_and_hazards.md R110: OUT changes only at COMPOSITE (or at a reset). -/
def Obligations.OutChangesOnlyAtComposite : Prop :=
  ∀ s t : State, step s = .next t → (∃ i, i < 1024 ∧ t.planeByte .out i ≠ s.planeByte .out i) →
    ∃ op rest, s.pending = op :: rest ∧ (op = .reset ∨ op = commandWrite 0x00000005)

/-- 70_reset_and_hazards.md R111: the LED buffer and LEDLEN change only at an ENCODE that finishes OK (or at a reset). -/
def Obligations.LedFrameChangesOnlyAtEncode : Prop :=
  ∀ s t : State, step s = .next t → (t.ledlen ≠ s.ledlen ∨ ∃ k, k < 12 * s.cfg.maxLeds + 8 ∧ t.ledByte k ≠ s.ledByte k) →
    ∃ op rest, s.pending = op :: rest ∧ (op = .reset ∨ (op = commandWrite 0x00000009 ∧ t.result = .ok))

/-- A host whose accesses the engine all admits never meets a fault, however long the run: no command faults (40_command_cycle.md R56, 60_exceptions.md
R92). -/
def Obligations.PoliteHostRunsWithoutFault : Prop :=
  ∀ (n : Nat) (s : State), s.politeHost = true → ∃ t, Host.Core.run core n s = .next t ∧ t.politeHost = true

/-- The model's canonical form does its work: two memories in canonical form that read alike are one list. -/
def Obligations.CanonicalMemoriesThatReadAlikeAreEqual : Prop :=
  ∀ (d : Nat → Byte) (m₁ m₂ : Memory), Memory.wf d m₁ → Memory.wf d m₂ → (∀ a, Memory.read d m₁ a = Memory.read d m₂ a) → m₁ = m₂

/-- 00_scope.md R6: the parameters are in their ranges. -/
def Obligations.ParametersAreInRange : Prop :=
  ∀ c : Config, (1 ≤ c.maxLeds ∧ c.maxLeds ≤ 2047) ∧ (∀ size, 1 ≤ c.glyphWidth size ∧ c.glyphWidth size ≤ 128) ∧
    (c.glyphLoCode = 32 ∨ c.glyphLoCode = 33)

/-! ## The assembly language (30_encoding.md R49, R50) -/

/-- The number T of a target in R49's `.T`: 0, 1, 2. -/
def Sys2Proof.Target.number : Target → Nat
  | .fb => 0
  | .andm => 1
  | .orm => 2

/-- The table of 30_encoding.md R49: of every command mnemonic the command it stands for, its word w, and the operands written to ARG0 on. -/
def Sys2Proof.Machine.AsmLine.row : AsmLine → Instr × Nat × List Int
  | .nop => (.nop, 0x00, [])
  | .fill t x0 y0 x1 y1 => (.fill t, 0x01 + 256 * t.number, [x0, y0, x1, y1])
  | .erase t x0 y0 x1 y1 => (.erase t, 0x02 + 256 * t.number, [x0, y0, x1, y1])
  | .copy t x0 y0 x1 y1 dx dy => (.copy t, 0x03 + 256 * t.number, [x0, y0, x1, y1, dx, dy])
  | .glyph t x y c size => (.glyph t size c, 0x04 + 256 * t.number + 4096 * size + 65536 * c, [x, y])
  | .composite => (.composite, 0x05, [])
  | .maskinit => (.maskinit, 0x06, [])
  | .maskchar c => (.maskchar c, 0x07 + 65536 * c, [])
  | .color12 index rgb12 => (.color12, 0x08, [index, rgb12])
  | .encode count supplied => (.encode, 0x09, [count, supplied])

/-- The operand registers after the 16-bit patterns of `vs` are written to ARG0 on; a register with no operand keeps what it held. -/
def Sys2Proof.Machine.argsWith (vs : List Int) (args : Vector Half 6) : Vector Half 6 :=
  Vector.ofFn fun n : Fin 6 =>
    match vs[n.val]? with
    | some v => BitVec.ofInt 16 v
    | none => args[n]

/-- 30_encoding.md R49: every command mnemonic, with operands the assembler takes, expands to one access an operand and one more; made in order from
any state they load the operands into ARG0 on and then run the mnemonic's word. A mnemonic with an ARG operand outside [−32768, 65535] is refused; that
the fields SIZE and IMM8 must fit as well is the model's choice (log 18, DESIGN CHOICE). -/
def Obligations.CommandLineWritesOperandsThenRuns : Prop :=
  ∀ (line : AsmLine) (i : Instr) (w : Nat) (vs : List Int), line.row = (i, w, vs) →
    ((∀ v ∈ vs, -32768 ≤ v ∧ v ≤ 65535) → i.wellFormed = true →
      ∃ ops, line.expand = some ops ∧ ops.length = vs.length + 1 ∧ ∀ (s : State) (rest : List HostOp), s.pending = ops ++ rest →
        Host.Core.run core (vs.length + 1) s =
          exec i { s.afterCommandWrite rest (BitVec.ofNat 32 w) with args := argsWith vs s.args }) ∧
    ((∃ v ∈ vs, v < -32768 ∨ 65535 < v) → line.expand = none)

/-- 30_encoding.md R50: `pixel.T x, y` sets one pixel of the grid, and `unpixel.T x, y` clears it. -/
def Obligations.PixelPseudoSetsOnePixel : Prop :=
  ∀ (c : Config) (t : Target) (px py : Nat), px < 128 → py < 64 → ∀ on : Bool,
    ∃ ops, Pseudo.expand c (if on then .pixel t px py else .unpixel t px py) = some ops ∧ ops.length = 5 ∧
      ∀ (s : State) (rest : List HostOp), s.pending = ops ++ rest → ∃ u, Host.Core.run core 5 s = .next u ∧ u.result = .ok ∧
        ∀ (p : Plane) (x y : Nat), x < 128 → y < 64 →
          u.pixel p x y = if p = targetPlane t ∧ x = px ∧ y = py then on else s.pixel p x y

/-! ## What the model records of a narrow read -/

/-- A read of 1 or 2 bytes returns that many bytes (20_memory.md R28, R30, R32); that the model records them with the upper bits 0 is its own choice
(log 11, DEDUCED). -/
def Obligations.NarrowReadsAreRecordedZeroExtended : Prop :=
  ∀ (s : State) (rest : List HostOp) (off : BitVec 16) (n : Width), s.pending = .read off n :: rest → readAdmitted s.cfg off n = true →
    ∃ d, step s = .next (s.answered rest (.data d)) ∧ ∀ j, n.bytes ≤ j → d.extractLsb' (8 * j) 8 = 0
end

