-- ==== Sys2Proof/Laws/Memory.lean ====
section
/-! SUPPORT. What the one operation that writes memory does: what is read after it, and that it keeps the canonical form and the bounds. -/

namespace Sys2Proof.Machine

theorem Memory.read_append (d : Nat → Byte) (m₁ m₂ : Memory) (a : Nat) :
    Memory.read d (m₁ ++ m₂) a = if a ∈ m₁.map Prod.fst then Memory.read d m₁ a else Memory.read d m₂ a := by
  induction m₁ with
  | nil => simp
  | cons cell rest ih =>
    by_cases h : cell.1 = a
    · simp [Memory.read, h]
    · simp [Memory.read, h, ih, Ne.symm h]

theorem Memory.read_unlisted {d : Nat → Byte} {m : Memory} {a : Nat} (h : a ∉ m.map Prod.fst) : Memory.read d m a = d a := by
  induction m with
  | nil => rfl
  | cons cell rest ih =>
    simp only [List.map_cons, List.mem_cons, not_or] at h
    simp [Memory.read, Ne.symm h.1, ih h.2]

/-- Filtering by address leaves the addresses it keeps readable as before. -/
theorem Memory.read_filter {d : Nat → Byte} {m : Memory} {p : Nat → Bool} {a : Nat} (h : p a = true) :
    Memory.read d (m.filter fun cell => p cell.1) a = Memory.read d m a := by
  induction m with
  | nil => rfl
  | cons cell rest ih =>
    by_cases hc : cell.1 = a
    · simp [Memory.read, hc, h]
    · by_cases hp : p cell.1 = true <;> simp [Memory.read, hc, hp, ih]

theorem Memory.mem_cells {d : Nat → Byte} {lo n : Nat} {f : Nat → Byte} {cell : Host.Cell} :
    cell ∈ Memory.cells d lo n f ↔ (lo ≤ cell.1 ∧ cell.1 < lo + n) ∧ cell.2 = f cell.1 ∧ f cell.1 ≠ d cell.1 := by
  obtain ⟨a, v⟩ := cell
  simp only [Memory.cells, List.mem_filterMap, List.mem_range'_1, Option.ite_none_left_eq_some, Option.some.injEq, Prod.mk.injEq]
  constructor
  · rintro ⟨b, hb, hne, rfl, rfl⟩
    exact ⟨hb, rfl, hne⟩
  · rintro ⟨hb, rfl, hne⟩
    exact ⟨a, hb, hne, rfl, rfl⟩

theorem Memory.read_of_mem {d : Nat → Byte} {m : Memory} (h : m.Pairwise fun x y => x.1 < y.1) {cell : Host.Cell} (hc : cell ∈ m) :
    Memory.read d m cell.1 = cell.2 := by
  induction m with
  | nil => simp at hc
  | cons c rest ih =>
    obtain ⟨hlt, hrest⟩ := List.pairwise_cons.1 h
    rcases List.mem_cons.1 hc with rfl | hc
    · simp [Memory.read]
    · have := hlt cell hc
      simp [Memory.read, Nat.ne_of_lt this, ih hrest hc]

theorem Memory.cells_sorted (d : Nat → Byte) (lo n : Nat) (f : Nat → Byte) :
    (Memory.cells d lo n f).Pairwise fun x y => x.1 < y.1 := by
  refine List.Pairwise.filterMap _ (R := (· < ·)) ?_ (List.pairwise_lt_range' (s := lo) (n := n) (step := 1))
  intro a a' hlt b hb b' hb'
  simp only [Option.ite_none_left_eq_some, Option.some.injEq] at hb hb'
  obtain ⟨-, rfl⟩ := hb
  obtain ⟨-, rfl⟩ := hb'
  exact hlt

theorem Memory.read_cells {d : Nat → Byte} {lo n : Nat} {f : Nat → Byte} {a : Nat} (h : lo ≤ a ∧ a < lo + n) :
    Memory.read d (Memory.cells d lo n f) a = f a := by
  by_cases hd : f a = d a
  · rw [Memory.read_unlisted, hd]
    rintro hm
    obtain ⟨cell, hc, rfl⟩ := List.mem_map.1 hm
    exact (Memory.mem_cells.1 hc).2.2 hd
  · exact Memory.read_of_mem (Memory.cells_sorted d lo n f) (cell := (a, f a)) (Memory.mem_cells.2 ⟨h, rfl, hd⟩)

/-- What is read after a store: the stored value at the stored addresses, what was there before at every other. -/
theorem Memory.read_writeRange (d : Nat → Byte) (m : Memory) (lo n : Nat) (f : Nat → Byte) (a : Nat) :
    Memory.read d (Memory.writeRange d m lo n f) a = if lo ≤ a ∧ a < lo + n then f a else Memory.read d m a := by
  unfold Memory.writeRange
  rw [List.append_assoc, Memory.read_append, Memory.read_append]
  have hlow : a ∈ (m.filter fun cell => cell.1 < lo).map Prod.fst → a < lo := by
    simp only [List.mem_map, List.mem_filter, decide_eq_true_eq]
    rintro ⟨c, ⟨-, h⟩, rfl⟩
    exact h
  have hmid : a ∈ (Memory.cells d lo n f).map Prod.fst → lo ≤ a ∧ a < lo + n := by
    simp only [List.mem_map]
    rintro ⟨c, h, rfl⟩
    exact (Memory.mem_cells.1 h).1
  have hhigh : a ∈ (m.filter fun cell => lo + n ≤ cell.1).map Prod.fst → lo + n ≤ a := by
    simp only [List.mem_map, List.mem_filter, decide_eq_true_eq]
    rintro ⟨c, ⟨-, h⟩, rfl⟩
    exact h
  by_cases hin : lo ≤ a ∧ a < lo + n
  · rw [if_neg (fun h => by have := hlow h; omega), if_pos hin]
    split
    · exact Memory.read_cells hin
    · rename_i hno
      rw [Memory.read_unlisted (fun h => by have := hhigh h; omega), ← Memory.read_cells (d := d) (f := f) hin,
        Memory.read_unlisted hno]
  · rw [if_neg hin, if_neg (fun h => hin (hmid h))]
    split
    · rename_i h
      exact Memory.read_filter (p := fun b => decide (b < lo)) (by simpa using hlow h)
    · rename_i h
      by_cases hge : lo + n ≤ a
      · exact Memory.read_filter (p := fun b => decide (lo + n ≤ b)) (by simpa using hge)
      · have hlt : a < lo := by omega
        have hnot : a ∉ m.map Prod.fst := by
          intro hm
          obtain ⟨c, hc, rfl⟩ := List.mem_map.1 hm
          exact h (List.mem_map.2 ⟨c, List.mem_filter.2 ⟨hc, by simpa using hlt⟩, rfl⟩)
        rw [Memory.read_unlisted hnot, Memory.read_unlisted]
        exact fun h' => hge (hhigh h')

/-- A cell after a store is a stored one or one that was there before. -/
theorem Memory.mem_writeRange {d : Nat → Byte} {m : Memory} {lo n : Nat} {f : Nat → Byte} {cell : Host.Cell}
    (h : cell ∈ Memory.writeRange d m lo n f) : (lo ≤ cell.1 ∧ cell.1 < lo + n) ∨ cell ∈ m := by
  simp only [Memory.writeRange, List.mem_append, List.mem_filter] at h
  rcases h with (h | h) | h
  · exact .inr h.1
  · exact .inl (Memory.mem_cells.1 h).1
  · exact .inr h.1

/-- A store keeps the canonical form. -/
theorem Memory.wf_writeRange {d : Nat → Byte} {m : Memory} (h : Memory.wf d m) (lo n : Nat) (f : Nat → Byte) :
    Memory.wf d (Memory.writeRange d m lo n f) := by
  obtain ⟨hs, hd⟩ := h
  refine ⟨?_, ?_⟩
  · unfold Memory.writeRange
    rw [List.pairwise_append, List.pairwise_append]
    refine ⟨⟨hs.filter _, Memory.cells_sorted d lo n f, ?_⟩, hs.filter _, ?_⟩
    · intro x hx y hy
      have hx := (List.mem_filter.1 hx).2
      have hy := (Memory.mem_cells.1 hy).1
      simp only [decide_eq_true_eq] at hx
      omega
    · intro x hx y hy
      have hy := (List.mem_filter.1 hy).2
      simp only [decide_eq_true_eq] at hy
      rcases List.mem_append.1 hx with hx | hx
      · have hx := (List.mem_filter.1 hx).2
        simp only [decide_eq_true_eq] at hx
        omega
      · have hx := (Memory.mem_cells.1 hx).1
        omega
  · intro cell hc
    simp only [Memory.writeRange, List.mem_append] at hc
    rcases hc with (hc | hc) | hc
    · exact hd cell (List.mem_filter.1 hc).1
    · obtain ⟨-, hv, hne⟩ := Memory.mem_cells.1 hc
      rw [hv]
      exact hne
    · exact hd cell (List.mem_filter.1 hc).1

/-- The empty memory, the memory of the reset state, is in canonical form. -/
theorem Memory.wf_nil (d : Nat → Byte) : Memory.wf d [] := ⟨.nil, by simp⟩

end Sys2Proof.Machine
end

