-- ==== Sys2Proof/Laws/State.lean ====
section
/-! SUPPORT. What each update of one field leaves in every field of the state, and what the reset state holds. -/

namespace Sys2Proof.Machine

/-! ## setMem -/

@[simp] theorem State.setMem_cfg (s : State) (m : Memory) : (s.setMem m).cfg = s.cfg := rfl
@[simp] theorem State.setMem_draws (s : State) (m : Memory) : (s.setMem m).draws = s.draws := rfl
@[simp] theorem State.setMem_resets (s : State) (m : Memory) : (s.setMem m).resets = s.resets := rfl
@[simp] theorem State.setMem_mem (s : State) (m : Memory) : (s.setMem m).mem = m := rfl
@[simp] theorem State.setMem_args (s : State) (m : Memory) : (s.setMem m).args = s.args := rfl
@[simp] theorem State.setMem_cmd (s : State) (m : Memory) : (s.setMem m).cmd = s.cmd := rfl
@[simp] theorem State.setMem_result (s : State) (m : Memory) : (s.setMem m).result = s.result := rfl
@[simp] theorem State.setMem_err (s : State) (m : Memory) : (s.setMem m).err = s.err := rfl
@[simp] theorem State.setMem_ledlen (s : State) (m : Memory) : (s.setMem m).ledlen = s.ledlen := rfl
@[simp] theorem State.setMem_mcRow (s : State) (m : Memory) : (s.setMem m).mcRow = s.mcRow := rfl
@[simp] theorem State.setMem_mcCol (s : State) (m : Memory) : (s.setMem m).mcCol = s.mcCol := rfl
@[simp] theorem State.setMem_pending (s : State) (m : Memory) : (s.setMem m).pending = s.pending := rfl
@[simp] theorem State.setMem_resp (s : State) (m : Memory) : (s.setMem m).resp = s.resp := rfl
@[simp] theorem State.setMem_unwritten (s : State) (m : Memory) : (s.setMem m).unwritten = s.unwritten := rfl

/-! ## setCmd -/

@[simp] theorem State.setCmd_cfg (s : State) (w : Word) : (s.setCmd w).cfg = s.cfg := rfl
@[simp] theorem State.setCmd_draws (s : State) (w : Word) : (s.setCmd w).draws = s.draws := rfl
@[simp] theorem State.setCmd_resets (s : State) (w : Word) : (s.setCmd w).resets = s.resets := rfl
@[simp] theorem State.setCmd_mem (s : State) (w : Word) : (s.setCmd w).mem = s.mem := rfl
@[simp] theorem State.setCmd_args (s : State) (w : Word) : (s.setCmd w).args = s.args := rfl
@[simp] theorem State.setCmd_cmd (s : State) (w : Word) : (s.setCmd w).cmd = w := rfl
@[simp] theorem State.setCmd_result (s : State) (w : Word) : (s.setCmd w).result = s.result := rfl
@[simp] theorem State.setCmd_err (s : State) (w : Word) : (s.setCmd w).err = s.err := rfl
@[simp] theorem State.setCmd_ledlen (s : State) (w : Word) : (s.setCmd w).ledlen = s.ledlen := rfl
@[simp] theorem State.setCmd_mcRow (s : State) (w : Word) : (s.setCmd w).mcRow = s.mcRow := rfl
@[simp] theorem State.setCmd_mcCol (s : State) (w : Word) : (s.setCmd w).mcCol = s.mcCol := rfl
@[simp] theorem State.setCmd_pending (s : State) (w : Word) : (s.setCmd w).pending = s.pending := rfl
@[simp] theorem State.setCmd_resp (s : State) (w : Word) : (s.setCmd w).resp = s.resp := rfl
@[simp] theorem State.setCmd_unwritten (s : State) (w : Word) : (s.setCmd w).unwritten = s.unwritten := rfl
@[simp] theorem State.setCmd_byte (s : State) (w : Word) : (s.setCmd w).byte = s.byte := rfl
@[simp] theorem State.setCmd_planeByte (s : State) (w : Word) : (s.setCmd w).planeByte = s.planeByte := rfl
@[simp] theorem State.setCmd_pixel (s : State) (w : Word) : (s.setCmd w).pixel = s.pixel := rfl
@[simp] theorem State.setCmd_color (s : State) (w : Word) : (s.setCmd w).color = s.color := rfl
@[simp] theorem State.setCmd_ledByte (s : State) (w : Word) : (s.setCmd w).ledByte = s.ledByte := rfl

/-! ## setArg -/

@[simp] theorem State.setArg_cfg (s : State) (n : Fin 6) (v : Half) : (s.setArg n v).cfg = s.cfg := rfl
@[simp] theorem State.setArg_draws (s : State) (n : Fin 6) (v : Half) : (s.setArg n v).draws = s.draws := rfl
@[simp] theorem State.setArg_resets (s : State) (n : Fin 6) (v : Half) : (s.setArg n v).resets = s.resets := rfl
@[simp] theorem State.setArg_mem (s : State) (n : Fin 6) (v : Half) : (s.setArg n v).mem = s.mem := rfl
@[simp] theorem State.setArg_args (s : State) (n : Fin 6) (v : Half) : (s.setArg n v).args = s.args.set n v := rfl
@[simp] theorem State.setArg_cmd (s : State) (n : Fin 6) (v : Half) : (s.setArg n v).cmd = s.cmd := rfl
@[simp] theorem State.setArg_result (s : State) (n : Fin 6) (v : Half) : (s.setArg n v).result = s.result := rfl
@[simp] theorem State.setArg_err (s : State) (n : Fin 6) (v : Half) : (s.setArg n v).err = s.err := rfl
@[simp] theorem State.setArg_ledlen (s : State) (n : Fin 6) (v : Half) : (s.setArg n v).ledlen = s.ledlen := rfl
@[simp] theorem State.setArg_mcRow (s : State) (n : Fin 6) (v : Half) : (s.setArg n v).mcRow = s.mcRow := rfl
@[simp] theorem State.setArg_mcCol (s : State) (n : Fin 6) (v : Half) : (s.setArg n v).mcCol = s.mcCol := rfl
@[simp] theorem State.setArg_pending (s : State) (n : Fin 6) (v : Half) : (s.setArg n v).pending = s.pending := rfl
@[simp] theorem State.setArg_resp (s : State) (n : Fin 6) (v : Half) : (s.setArg n v).resp = s.resp := rfl
@[simp] theorem State.setArg_unwritten (s : State) (n : Fin 6) (v : Half) : (s.setArg n v).unwritten = s.unwritten := rfl
@[simp] theorem State.setArg_byte (s : State) (n : Fin 6) (v : Half) : (s.setArg n v).byte = s.byte := rfl
@[simp] theorem State.setArg_planeByte (s : State) (n : Fin 6) (v : Half) : (s.setArg n v).planeByte = s.planeByte := rfl
@[simp] theorem State.setArg_pixel (s : State) (n : Fin 6) (v : Half) : (s.setArg n v).pixel = s.pixel := rfl
@[simp] theorem State.setArg_color (s : State) (n : Fin 6) (v : Half) : (s.setArg n v).color = s.color := rfl
@[simp] theorem State.setArg_ledByte (s : State) (n : Fin 6) (v : Half) : (s.setArg n v).ledByte = s.ledByte := rfl

/-! ## setCursor -/

@[simp] theorem State.setCursor_cfg (s : State) (row col : Nat) : (s.setCursor row col).cfg = s.cfg := rfl
@[simp] theorem State.setCursor_draws (s : State) (row col : Nat) : (s.setCursor row col).draws = s.draws := rfl
@[simp] theorem State.setCursor_resets (s : State) (row col : Nat) : (s.setCursor row col).resets = s.resets := rfl
@[simp] theorem State.setCursor_mem (s : State) (row col : Nat) : (s.setCursor row col).mem = s.mem := rfl
@[simp] theorem State.setCursor_args (s : State) (row col : Nat) : (s.setCursor row col).args = s.args := rfl
@[simp] theorem State.setCursor_cmd (s : State) (row col : Nat) : (s.setCursor row col).cmd = s.cmd := rfl
@[simp] theorem State.setCursor_result (s : State) (row col : Nat) : (s.setCursor row col).result = s.result := rfl
@[simp] theorem State.setCursor_err (s : State) (row col : Nat) : (s.setCursor row col).err = s.err := rfl
@[simp] theorem State.setCursor_ledlen (s : State) (row col : Nat) : (s.setCursor row col).ledlen = s.ledlen := rfl
@[simp] theorem State.setCursor_mcRow (s : State) (row col : Nat) : (s.setCursor row col).mcRow = row := rfl
@[simp] theorem State.setCursor_mcCol (s : State) (row col : Nat) : (s.setCursor row col).mcCol = col := rfl
@[simp] theorem State.setCursor_pending (s : State) (row col : Nat) : (s.setCursor row col).pending = s.pending := rfl
@[simp] theorem State.setCursor_resp (s : State) (row col : Nat) : (s.setCursor row col).resp = s.resp := rfl
@[simp] theorem State.setCursor_unwritten (s : State) (row col : Nat) : (s.setCursor row col).unwritten = s.unwritten := rfl
@[simp] theorem State.setCursor_byte (s : State) (row col : Nat) : (s.setCursor row col).byte = s.byte := rfl
@[simp] theorem State.setCursor_planeByte (s : State) (row col : Nat) : (s.setCursor row col).planeByte = s.planeByte := rfl
@[simp] theorem State.setCursor_pixel (s : State) (row col : Nat) : (s.setCursor row col).pixel = s.pixel := rfl
@[simp] theorem State.setCursor_color (s : State) (row col : Nat) : (s.setCursor row col).color = s.color := rfl
@[simp] theorem State.setCursor_ledByte (s : State) (row col : Nat) : (s.setCursor row col).ledByte = s.ledByte := rfl

/-! ## setLedlen -/

@[simp] theorem State.setLedlen_cfg (s : State) (n : Nat) : (s.setLedlen n).cfg = s.cfg := rfl
@[simp] theorem State.setLedlen_draws (s : State) (n : Nat) : (s.setLedlen n).draws = s.draws := rfl
@[simp] theorem State.setLedlen_resets (s : State) (n : Nat) : (s.setLedlen n).resets = s.resets := rfl
@[simp] theorem State.setLedlen_mem (s : State) (n : Nat) : (s.setLedlen n).mem = s.mem := rfl
@[simp] theorem State.setLedlen_args (s : State) (n : Nat) : (s.setLedlen n).args = s.args := rfl
@[simp] theorem State.setLedlen_cmd (s : State) (n : Nat) : (s.setLedlen n).cmd = s.cmd := rfl
@[simp] theorem State.setLedlen_result (s : State) (n : Nat) : (s.setLedlen n).result = s.result := rfl
@[simp] theorem State.setLedlen_err (s : State) (n : Nat) : (s.setLedlen n).err = s.err := rfl
@[simp] theorem State.setLedlen_ledlen (s : State) (n : Nat) : (s.setLedlen n).ledlen = BitVec.ofNat 16 n := rfl
@[simp] theorem State.setLedlen_mcRow (s : State) (n : Nat) : (s.setLedlen n).mcRow = s.mcRow := rfl
@[simp] theorem State.setLedlen_mcCol (s : State) (n : Nat) : (s.setLedlen n).mcCol = s.mcCol := rfl
@[simp] theorem State.setLedlen_pending (s : State) (n : Nat) : (s.setLedlen n).pending = s.pending := rfl
@[simp] theorem State.setLedlen_resp (s : State) (n : Nat) : (s.setLedlen n).resp = s.resp := rfl
@[simp] theorem State.setLedlen_unwritten (s : State) (n : Nat) : (s.setLedlen n).unwritten = s.unwritten := rfl
@[simp] theorem State.setLedlen_byte (s : State) (n : Nat) : (s.setLedlen n).byte = s.byte := rfl
@[simp] theorem State.setLedlen_planeByte (s : State) (n : Nat) : (s.setLedlen n).planeByte = s.planeByte := rfl
@[simp] theorem State.setLedlen_pixel (s : State) (n : Nat) : (s.setLedlen n).pixel = s.pixel := rfl
@[simp] theorem State.setLedlen_color (s : State) (n : Nat) : (s.setLedlen n).color = s.color := rfl
@[simp] theorem State.setLedlen_ledByte (s : State) (n : Nat) : (s.setLedlen n).ledByte = s.ledByte := rfl

/-! ## setPending -/

@[simp] theorem State.setPending_cfg (s : State) (ops : List HostOp) : (s.setPending ops).cfg = s.cfg := rfl
@[simp] theorem State.setPending_draws (s : State) (ops : List HostOp) : (s.setPending ops).draws = s.draws := rfl
@[simp] theorem State.setPending_resets (s : State) (ops : List HostOp) : (s.setPending ops).resets = s.resets := rfl
@[simp] theorem State.setPending_mem (s : State) (ops : List HostOp) : (s.setPending ops).mem = s.mem := rfl
@[simp] theorem State.setPending_args (s : State) (ops : List HostOp) : (s.setPending ops).args = s.args := rfl
@[simp] theorem State.setPending_cmd (s : State) (ops : List HostOp) : (s.setPending ops).cmd = s.cmd := rfl
@[simp] theorem State.setPending_result (s : State) (ops : List HostOp) : (s.setPending ops).result = s.result := rfl
@[simp] theorem State.setPending_err (s : State) (ops : List HostOp) : (s.setPending ops).err = s.err := rfl
@[simp] theorem State.setPending_ledlen (s : State) (ops : List HostOp) : (s.setPending ops).ledlen = s.ledlen := rfl
@[simp] theorem State.setPending_mcRow (s : State) (ops : List HostOp) : (s.setPending ops).mcRow = s.mcRow := rfl
@[simp] theorem State.setPending_mcCol (s : State) (ops : List HostOp) : (s.setPending ops).mcCol = s.mcCol := rfl
@[simp] theorem State.setPending_pending (s : State) (ops : List HostOp) : (s.setPending ops).pending = ops := rfl
@[simp] theorem State.setPending_resp (s : State) (ops : List HostOp) : (s.setPending ops).resp = s.resp := rfl
@[simp] theorem State.setPending_unwritten (s : State) (ops : List HostOp) : (s.setPending ops).unwritten = s.unwritten := rfl
@[simp] theorem State.setPending_byte (s : State) (ops : List HostOp) : (s.setPending ops).byte = s.byte := rfl
@[simp] theorem State.setPending_planeByte (s : State) (ops : List HostOp) : (s.setPending ops).planeByte = s.planeByte := rfl
@[simp] theorem State.setPending_pixel (s : State) (ops : List HostOp) : (s.setPending ops).pixel = s.pixel := rfl
@[simp] theorem State.setPending_color (s : State) (ops : List HostOp) : (s.setPending ops).color = s.color := rfl
@[simp] theorem State.setPending_ledByte (s : State) (ops : List HostOp) : (s.setPending ops).ledByte = s.ledByte := rfl

/-! ## respond -/

@[simp] theorem State.respond_cfg (s : State) (r : BusResponse) : (s.respond r).cfg = s.cfg := rfl
@[simp] theorem State.respond_draws (s : State) (r : BusResponse) : (s.respond r).draws = s.draws := rfl
@[simp] theorem State.respond_resets (s : State) (r : BusResponse) : (s.respond r).resets = s.resets := rfl
@[simp] theorem State.respond_mem (s : State) (r : BusResponse) : (s.respond r).mem = s.mem := rfl
@[simp] theorem State.respond_args (s : State) (r : BusResponse) : (s.respond r).args = s.args := rfl
@[simp] theorem State.respond_cmd (s : State) (r : BusResponse) : (s.respond r).cmd = s.cmd := rfl
@[simp] theorem State.respond_result (s : State) (r : BusResponse) : (s.respond r).result = s.result := rfl
@[simp] theorem State.respond_err (s : State) (r : BusResponse) : (s.respond r).err = s.err := rfl
@[simp] theorem State.respond_ledlen (s : State) (r : BusResponse) : (s.respond r).ledlen = s.ledlen := rfl
@[simp] theorem State.respond_mcRow (s : State) (r : BusResponse) : (s.respond r).mcRow = s.mcRow := rfl
@[simp] theorem State.respond_mcCol (s : State) (r : BusResponse) : (s.respond r).mcCol = s.mcCol := rfl
@[simp] theorem State.respond_pending (s : State) (r : BusResponse) : (s.respond r).pending = s.pending := rfl
@[simp] theorem State.respond_resp (s : State) (r : BusResponse) : (s.respond r).resp = r := rfl
@[simp] theorem State.respond_unwritten (s : State) (r : BusResponse) : (s.respond r).unwritten = s.unwritten := rfl
@[simp] theorem State.respond_byte (s : State) (r : BusResponse) : (s.respond r).byte = s.byte := rfl
@[simp] theorem State.respond_planeByte (s : State) (r : BusResponse) : (s.respond r).planeByte = s.planeByte := rfl
@[simp] theorem State.respond_pixel (s : State) (r : BusResponse) : (s.respond r).pixel = s.pixel := rfl
@[simp] theorem State.respond_color (s : State) (r : BusResponse) : (s.respond r).color = s.color := rfl
@[simp] theorem State.respond_ledByte (s : State) (r : BusResponse) : (s.respond r).ledByte = s.ledByte := rfl

/-! ## finish -/

@[simp] theorem State.finish_cfg (s : State) (code : ResultCode) : (s.finish code).cfg = s.cfg := rfl
@[simp] theorem State.finish_draws (s : State) (code : ResultCode) : (s.finish code).draws = s.draws := rfl
@[simp] theorem State.finish_resets (s : State) (code : ResultCode) : (s.finish code).resets = s.resets := rfl
@[simp] theorem State.finish_mem (s : State) (code : ResultCode) : (s.finish code).mem = s.mem := rfl
@[simp] theorem State.finish_args (s : State) (code : ResultCode) : (s.finish code).args = s.args := rfl
@[simp] theorem State.finish_cmd (s : State) (code : ResultCode) : (s.finish code).cmd = s.cmd := rfl
@[simp] theorem State.finish_result (s : State) (code : ResultCode) : (s.finish code).result = code := rfl
@[simp] theorem State.finish_err (s : State) (code : ResultCode) : (s.finish code).err = (s.err || code.setsErr) := rfl
@[simp] theorem State.finish_ledlen (s : State) (code : ResultCode) : (s.finish code).ledlen = s.ledlen := rfl
@[simp] theorem State.finish_mcRow (s : State) (code : ResultCode) : (s.finish code).mcRow = s.mcRow := rfl
@[simp] theorem State.finish_mcCol (s : State) (code : ResultCode) : (s.finish code).mcCol = s.mcCol := rfl
@[simp] theorem State.finish_pending (s : State) (code : ResultCode) : (s.finish code).pending = s.pending := rfl
@[simp] theorem State.finish_resp (s : State) (code : ResultCode) : (s.finish code).resp = s.resp := rfl
@[simp] theorem State.finish_unwritten (s : State) (code : ResultCode) : (s.finish code).unwritten = s.unwritten := rfl
@[simp] theorem State.finish_byte (s : State) (code : ResultCode) : (s.finish code).byte = s.byte := rfl
@[simp] theorem State.finish_planeByte (s : State) (code : ResultCode) : (s.finish code).planeByte = s.planeByte := rfl
@[simp] theorem State.finish_pixel (s : State) (code : ResultCode) : (s.finish code).pixel = s.pixel := rfl
@[simp] theorem State.finish_color (s : State) (code : ResultCode) : (s.finish code).color = s.color := rfl
@[simp] theorem State.finish_ledByte (s : State) (code : ResultCode) : (s.finish code).ledByte = s.ledByte := rfl

/-! ## writeStatus -/

@[simp] theorem State.writeStatus_cfg (s : State) (v : Word) : (s.writeStatus v).cfg = s.cfg := rfl
@[simp] theorem State.writeStatus_draws (s : State) (v : Word) : (s.writeStatus v).draws = s.draws := rfl
@[simp] theorem State.writeStatus_resets (s : State) (v : Word) : (s.writeStatus v).resets = s.resets := rfl
@[simp] theorem State.writeStatus_mem (s : State) (v : Word) : (s.writeStatus v).mem = s.mem := rfl
@[simp] theorem State.writeStatus_args (s : State) (v : Word) : (s.writeStatus v).args = s.args := rfl
@[simp] theorem State.writeStatus_cmd (s : State) (v : Word) : (s.writeStatus v).cmd = s.cmd := rfl
@[simp] theorem State.writeStatus_result (s : State) (v : Word) : (s.writeStatus v).result = s.result := rfl
@[simp] theorem State.writeStatus_err (s : State) (v : Word) : (s.writeStatus v).err = (s.err && !v.getLsbD 8) := rfl
@[simp] theorem State.writeStatus_ledlen (s : State) (v : Word) : (s.writeStatus v).ledlen = s.ledlen := rfl
@[simp] theorem State.writeStatus_mcRow (s : State) (v : Word) : (s.writeStatus v).mcRow = s.mcRow := rfl
@[simp] theorem State.writeStatus_mcCol (s : State) (v : Word) : (s.writeStatus v).mcCol = s.mcCol := rfl
@[simp] theorem State.writeStatus_pending (s : State) (v : Word) : (s.writeStatus v).pending = s.pending := rfl
@[simp] theorem State.writeStatus_resp (s : State) (v : Word) : (s.writeStatus v).resp = s.resp := rfl
@[simp] theorem State.writeStatus_unwritten (s : State) (v : Word) : (s.writeStatus v).unwritten = s.unwritten := rfl
@[simp] theorem State.writeStatus_byte (s : State) (v : Word) : (s.writeStatus v).byte = s.byte := rfl
@[simp] theorem State.writeStatus_planeByte (s : State) (v : Word) : (s.writeStatus v).planeByte = s.planeByte := rfl
@[simp] theorem State.writeStatus_pixel (s : State) (v : Word) : (s.writeStatus v).pixel = s.pixel := rfl
@[simp] theorem State.writeStatus_color (s : State) (v : Word) : (s.writeStatus v).color = s.color := rfl
@[simp] theorem State.writeStatus_ledByte (s : State) (v : Word) : (s.writeStatus v).ledByte = s.ledByte := rfl

/-! ## reset -/

@[simp] theorem State.resetWith_cfg (c : Config) (d : List Host.Cell) (n : Nat) : (State.resetWith c d n).cfg = c := rfl
@[simp] theorem State.resetWith_draws (c : Config) (d : List Host.Cell) (n : Nat) : (State.resetWith c d n).draws = d := rfl
@[simp] theorem State.resetWith_resets (c : Config) (d : List Host.Cell) (n : Nat) : (State.resetWith c d n).resets = n := rfl
@[simp] theorem State.resetWith_mem (c : Config) (d : List Host.Cell) (n : Nat) : (State.resetWith c d n).mem = [] := rfl
@[simp] theorem State.resetWith_args (c : Config) (d : List Host.Cell) (n : Nat) : (State.resetWith c d n).args = Vector.replicate 6 0 := rfl
@[simp] theorem State.resetWith_cmd (c : Config) (d : List Host.Cell) (n : Nat) : (State.resetWith c d n).cmd = 0 := rfl
@[simp] theorem State.resetWith_result (c : Config) (d : List Host.Cell) (n : Nat) : (State.resetWith c d n).result = .ok := rfl
@[simp] theorem State.resetWith_err (c : Config) (d : List Host.Cell) (n : Nat) : (State.resetWith c d n).err = false := rfl
@[simp] theorem State.resetWith_ledlen (c : Config) (d : List Host.Cell) (n : Nat) : (State.resetWith c d n).ledlen = 0 := rfl
@[simp] theorem State.resetWith_mcRow (c : Config) (d : List Host.Cell) (n : Nat) : (State.resetWith c d n).mcRow = 0 := rfl
@[simp] theorem State.resetWith_mcCol (c : Config) (d : List Host.Cell) (n : Nat) : (State.resetWith c d n).mcCol = 0 := rfl
@[simp] theorem State.resetWith_pending (c : Config) (d : List Host.Cell) (n : Nat) : (State.resetWith c d n).pending = [] := rfl
@[simp] theorem State.resetWith_resp (c : Config) (d : List Host.Cell) (n : Nat) : (State.resetWith c d n).resp = .quiet := rfl

@[simp] theorem State.resetWith_byte (c : Config) (d : List Host.Cell) (n : Nat) : (State.resetWith c d n).byte = unwrittenByte c d := rfl

end Sys2Proof.Machine
end

