-- ==== Sys2Proof/Laws/Storage.lean ====
section
/-! SUPPORT. One lemma for each store of Machine/Ops.lean: what every stored byte, plane byte, colour and LED buffer byte is after it, that it
touches nothing but memory, and that it keeps the canonical form and the bounds of 10_state.md R13. -/

namespace Sys2Proof

theorem Config.one_le_maxLeds (c : Config) : 1 ≤ c.maxLeds := Nat.le_add_left 1 _

theorem Config.maxLeds_le (c : Config) : c.maxLeds ≤ 2047 := by
  have := c.ledCapacity.isLt
  unfold Config.maxLeds
  omega

theorem Config.glyphWidth_bounds (c : Config) (size : Nat) : 1 ≤ c.glyphWidth size ∧ c.glyphWidth size ≤ 128 := by
  have h1 := c.gw1.isLt
  have h2 := c.gw2.isLt
  have h3 := c.gw3.isLt
  have h4 := c.gw4.isLt
  unfold Config.glyphWidth
  split <;> omega

namespace Machine

/-! ## store -/

/-- A store changes nothing but memory. -/
theorem State.store_eq (s : State) (lo n : Nat) (f : Nat → Byte) : s.store lo n f = s.setMem (s.store lo n f).mem := rfl

theorem State.byte_store (s : State) (lo n : Nat) (f : Nat → Byte) (a : Nat) :
    (s.store lo n f).byte a = if lo ≤ a ∧ a < lo + n then f a else s.byte a :=
  Memory.read_writeRange s.unwritten s.mem lo n f a

theorem State.wf_store {s : State} (h : Memory.wf s.unwritten s.mem) (lo n : Nat) (f : Nat → Byte) :
    Memory.wf (s.store lo n f).unwritten (s.store lo n f).mem :=
  Memory.wf_writeRange h lo n f

/-- Every listed offset is one of storage (10_state.md R13). -/
abbrev State.inBounds (s : State) : Prop := ∀ cell ∈ s.mem, isStorage s.cfg cell.1 = true

theorem Memory.mem_writeRange_ne {d : Nat → Byte} {m : Memory} {lo n : Nat} {f : Nat → Byte} {cell : Host.Cell}
    (h : cell ∈ Memory.writeRange d m lo n f) : (lo ≤ cell.1 ∧ cell.1 < lo + n ∧ f cell.1 ≠ d cell.1) ∨ cell ∈ m := by
  simp only [Memory.writeRange, List.mem_append, List.mem_filter] at h
  rcases h with (h | h) | h
  · exact .inr h.1
  · exact .inl ⟨(Memory.mem_cells.1 h).1.1, (Memory.mem_cells.1 h).1.2, (Memory.mem_cells.1 h).2.2⟩
  · exact .inr h.1

/-- A store keeps the bounds if every offset it lists is one of storage. -/
theorem State.inBounds_store {s : State} (h : s.inBounds) {lo n : Nat} {f : Nat → Byte}
    (hs : ∀ a, lo ≤ a → a < lo + n → f a ≠ s.unwritten a → isStorage s.cfg a = true) : (s.store lo n f).inBounds := by
  intro cell hc
  rcases Memory.mem_writeRange_ne hc with ⟨h₁, h₂, h₃⟩ | hc
  · exact hs cell.1 h₁ h₂ h₃
  · exact h cell hc

theorem isStorage_plane {c : Config} {a : Nat} (h : 0x0400 ≤ a ∧ a < 0x1400) : isStorage c a = true := by
  simp [isStorage, h.1, h.2]

theorem isStorage_color {c : Config} {a : Nat} (h₁ : colorBase ≤ a) (h₂ : a < colorBase + 4 * c.maxLeds) (h₃ : a % 4 ≠ 3) :
    isStorage c a = true := by
  simp [isStorage, h₁, h₂, h₃]

theorem isStorage_led {c : Config} {a : Nat} (h₁ : ledBase ≤ a) (h₂ : a < ledBase + ledBytes c) : isStorage c a = true := by
  simp [isStorage, h₁, h₂]

theorem Plane.base_eq (p : Plane) : p.base = 0x0400 ∨ p.base = 0x0800 ∨ p.base = 0x0C00 ∨ p.base = 0x1000 := by
  cases p <;> simp [Plane.base]

theorem Plane.base_bounds (p : Plane) : 0x0400 ≤ p.base ∧ p.base + 1024 ≤ 0x1400 := by
  rcases p.base_eq with h | h | h | h <;> omega

/-- The windows of two different planes do not meet. -/
theorem Plane.base_apart {p q : Plane} (h : p ≠ q) : p.base + 1024 ≤ q.base ∨ q.base + 1024 ≤ p.base := by
  cases p <;> cases q <;> simp_all [Plane.base]

/-! ## storePlane -/

theorem State.byte_storePlane (s : State) (p : Plane) (f : Nat → Byte) (a : Nat) :
    (s.storePlane p f).byte a = if p.base ≤ a ∧ a < p.base + 1024 then f (a - p.base) else s.byte a :=
  State.byte_store ..

theorem State.planeByte_storePlane (s : State) (p q : Plane) (f : Nat → Byte) {i : Nat} (hi : i < 1024) :
    (s.storePlane p f).planeByte q i = if q = p then f i else s.planeByte q i := by
  unfold State.planeByte
  rw [State.byte_storePlane]
  by_cases h : q = p
  · subst h
    rw [if_pos ⟨Nat.le_add_right .., by omega⟩, if_pos rfl, Nat.add_sub_cancel_left]
  · have := Plane.base_apart h
    rw [if_neg (by omega), if_neg h]

/-! ## setPlaneByte -/

theorem State.byte_setPlaneByte (s : State) (p : Plane) (i : Nat) (v : Byte) (a : Nat) :
    (s.setPlaneByte p i v).byte a = if a = p.base + i then v else s.byte a := by
  unfold State.setPlaneByte
  rw [State.byte_store]
  by_cases h : a = p.base + i
  · rw [if_pos (by omega), if_pos h]
  · rw [if_neg (by omega), if_neg h]

theorem State.planeByte_setPlaneByte (s : State) (p q : Plane) {i j : Nat} (v : Byte) (hi : i < 1024) (hj : j < 1024) :
    (s.setPlaneByte p i v).planeByte q j = if q = p ∧ j = i then v else s.planeByte q j := by
  unfold State.planeByte
  rw [State.byte_setPlaneByte]
  by_cases h : q = p
  · subst h
    by_cases hij : j = i
    · simp [hij]
    · rw [if_neg (by omega), if_neg (fun h => hij h.2)]
  · have := Plane.base_apart h
    rw [if_neg (by omega), if_neg (fun h' => h h'.1)]

/-! ## storeRect -/

theorem State.byte_storeRect (s : State) (p : Plane) {s0 s1 x0 x1 : Nat} (hx : x1 ≤ 127) (g : Nat → Nat → Byte) (a : Nat) :
    (inRect p s0 s1 x0 x1 a → (s.storeRect p s0 s1 x0 x1 g).byte a = g ((a - p.base) / 128) ((a - p.base) % 128)) ∧
    (¬ inRect p s0 s1 x0 x1 a → (s.storeRect p s0 s1 x0 x1 g).byte a = s.byte a) := by
  unfold State.storeRect inRect
  rw [State.byte_store]
  constructor
  · rintro ⟨h₁, ⟨h₂, h₃⟩, h₄, h₅⟩
    rw [if_pos (by omega), if_pos ⟨h₄, h₅⟩]
  · intro h
    split
    · split
      · rename_i h₁ h₂
        exact absurd ⟨by omega, ⟨by omega, by omega⟩, h₂.1, h₂.2⟩ h
      · rfl
    · rfl

theorem State.planeByte_storeRect (s : State) (p q : Plane) {s0 s1 x0 x1 : Nat} (hs : s1 ≤ 7) (hx : x1 ≤ 127)
    (g : Nat → Nat → Byte) {st x : Nat} (hst : st ≤ 7) (hxx : x ≤ 127) :
    (s.storeRect p s0 s1 x0 x1 g).planeByte q (st * 128 + x) =
      if q = p ∧ (s0 ≤ st ∧ st ≤ s1) ∧ x0 ≤ x ∧ x ≤ x1 then g st x else s.planeByte q (st * 128 + x) := by
  unfold State.planeByte
  have hb := State.byte_storeRect s p (s0 := s0) (s1 := s1) (x0 := x0) hx g (q.base + (st * 128 + x))
  by_cases h : q = p
  · subst h
    have e₁ : (q.base + (st * 128 + x) - q.base) / 128 = st := by omega
    have e₂ : (q.base + (st * 128 + x) - q.base) % 128 = x := by omega
    unfold inRect at hb
    rw [e₁, e₂] at hb
    split
    · rename_i h'
      exact hb.1 ⟨by omega, h'.2⟩
    · rename_i h'
      exact hb.2 fun h'' => h' ⟨rfl, h''.2⟩
  · have := Plane.base_apart h
    rw [if_neg fun h' => h h'.1]
    refine hb.2 ?_
    rintro ⟨h₁, ⟨-, h₂⟩, -⟩
    omega

theorem State.inBounds_storeRect {s : State} (h : s.inBounds) (p : Plane) {s0 s1 x0 x1 : Nat} (hs : s1 ≤ 7) (hx : x1 ≤ 127)
    (g : Nat → Nat → Byte) : (s.storeRect p s0 s1 x0 x1 g).inBounds := by
  have := p.base_bounds
  exact State.inBounds_store h fun a h₁ h₂ _ => isStorage_plane (by omega)

/-! ## storeColors -/

theorem colorByte_top (c : Color) : colorByte c 3 = 0x00#8 := by
  unfold colorByte
  ext i hi
  simp

theorem color_of_bytes (c : Color) : colorByte c 2 ++ colorByte c 1 ++ colorByte c 0 = c := by
  unfold colorByte
  ext i hi
  simp only [BitVec.getElem_append, BitVec.getElem_extractLsb', BitVec.getLsbD_setWidth]
  have hlt : ∀ k, c.getLsbD k = true → k < 24 := fun k hk => BitVec.lt_of_getLsbD hk
  split
  · simp [BitVec.getLsbD_eq_getElem, hi]
    omega
  · split
    · have e : 8 * 1 + (i - 8) = i := by omega
      simp [e, BitVec.getLsbD_eq_getElem, hi]
      omega
    · have e : 8 * 2 + (i - 8 - 8) = i := by omega
      simp [e, BitVec.getLsbD_eq_getElem, hi]
      omega

theorem State.byte_storeColors (s : State) (lo n : Nat) (g : Nat → Color) (a : Nat) :
    (s.storeColors lo n g).byte a =
      if colorBase + 4 * lo ≤ a ∧ a < colorBase + 4 * lo + 4 * n
      then colorByte (g ((a - colorBase) / 4)) ((a - colorBase) % 4) else s.byte a :=
  State.byte_store ..

theorem State.color_storeColors (s : State) (lo n : Nat) (g : Nat → Color) (j : Nat) :
    (s.storeColors lo n g).color j = if lo ≤ j ∧ j < lo + n then g j else s.color j := by
  unfold State.color
  rw [State.byte_storeColors, State.byte_storeColors, State.byte_storeColors]
  by_cases h : lo ≤ j ∧ j < lo + n
  · rw [if_pos h, if_pos (by omega), if_pos (by omega), if_pos (by omega)]
    have e₂ : (colorBase + 4 * j + 2 - colorBase) / 4 = j ∧ (colorBase + 4 * j + 2 - colorBase) % 4 = 2 := by omega
    have e₁ : (colorBase + 4 * j + 1 - colorBase) / 4 = j ∧ (colorBase + 4 * j + 1 - colorBase) % 4 = 1 := by omega
    have e₀ : (colorBase + 4 * j - colorBase) / 4 = j ∧ (colorBase + 4 * j - colorBase) % 4 = 0 := by omega
    rw [e₂.1, e₂.2, e₁.1, e₁.2, e₀.1, e₀.2]
    exact color_of_bytes (g j)
  · rw [if_neg h, if_neg (by omega), if_neg (by omega), if_neg (by omega)]

theorem State.unwritten_colorTop {s : State} {a : Nat} (h₁ : colorBase ≤ a) (h₂ : a < ledBase) (h₃ : a % 4 = 3) :
    s.unwritten a = 0x00#8 := by
  have hp : ¬ (Plane.andm.base ≤ a ∧ a < Plane.andm.base + 1024) := by
    simp only [Plane.base, colorBase] at *
    omega
  have hq : ¬ (Plane.orm.base ≤ a ∧ a < Plane.orm.base + 1024) := by
    simp only [Plane.base, colorBase] at *
    omega
  unfold State.unwritten unwrittenByte
  rw [if_neg hp, if_neg hq, if_pos ⟨h₁, h₂, h₃⟩]

theorem State.inBounds_storeColors {s : State} (h : s.inBounds) {lo n : Nat} (hn : lo + n ≤ s.cfg.maxLeds) (g : Nat → Color) :
    (s.storeColors lo n g).inBounds := by
  have hM := s.cfg.maxLeds_le
  refine State.inBounds_store h fun a h₁ h₂ h₃ => ?_
  refine isStorage_color (by omega) (by omega) fun h₄ => h₃ ?_
  have e : (a - colorBase) % 4 = 3 := by
    unfold colorBase at *
    omega
  rw [e, colorByte_top, State.unwritten_colorTop (by omega) (by simp only [ledBase, colorBase] at *; omega) h₄]

/-! ## What an unlisted offset reads as -/

theorem unwrittenByte_andm {c : Config} {d : List Host.Cell} {a : Nat} (h : 0x0800 ≤ a ∧ a < 0x0C00) :
    unwrittenByte c d a = c.maskDefaultAnd (a - 0x0800) := by
  unfold unwrittenByte
  exact if_pos h

theorem unwrittenByte_orm {c : Config} {d : List Host.Cell} {a : Nat} (h : 0x0C00 ≤ a ∧ a < 0x1000) :
    unwrittenByte c d a = c.maskDefaultOr (a - 0x0C00) := by
  unfold unwrittenByte
  exact (if_neg fun h' : 0x0800 ≤ a ∧ a < 0x0C00 => by omega).trans (if_pos h)

/-- Outside the mask planes and the top bytes of the colour words, an unlisted offset reads as the draw. -/
theorem unwrittenByte_drawn {c : Config} {d : List Host.Cell} {a : Nat} (h : ¬ (0x0800 ≤ a ∧ a < 0x1000))
    (h' : ¬ (0x2000 ≤ a ∧ a < 0x4000 ∧ a % 4 = 3)) : unwrittenByte c d a = drawnByte d a := by
  unfold unwrittenByte
  exact (if_neg fun h'' : 0x0800 ≤ a ∧ a < 0x0C00 => h ⟨h''.1, by omega⟩).trans
    ((if_neg fun h'' : 0x0C00 ≤ a ∧ a < 0x1000 => h ⟨by omega, h''.2⟩).trans (if_neg h'))

/-! ## storeLed -/

theorem State.byte_storeLed (s : State) (n : Nat) (f : Nat → Byte) (a : Nat) :
    (s.storeLed n f).byte a = if ledBase ≤ a ∧ a < ledBase + n then f (a - ledBase) else s.byte a :=
  State.byte_store ..

theorem State.ledByte_storeLed (s : State) (n : Nat) (f : Nat → Byte) (k : Nat) :
    (s.storeLed n f).ledByte k = if k < n then f k else s.ledByte k := by
  unfold State.ledByte
  rw [State.byte_storeLed]
  by_cases h : k < n
  · rw [if_pos (by omega), if_pos h, Nat.add_sub_cancel_left]
  · rw [if_neg (by omega), if_neg h]

theorem State.inBounds_storeLed {s : State} (h : s.inBounds) {n : Nat} (hn : n ≤ ledBytes s.cfg) (f : Nat → Byte) :
    (s.storeLed n f).inBounds :=
  State.inBounds_store h fun _ h₁ h₂ _ => isStorage_led h₁ (by omega)

/-! ## readBytes and writeBytes -/

/-- Byte `j` of the value read at `a` is the byte at `a + j`, and 0 past the access's width (20_memory.md R34). -/
theorem State.readBytes_byte (s : State) (a : Nat) (w : Width) {j : Nat} (hj : j < 4) :
    (s.readBytes a w).extractLsb' (8 * j) 8 = if j < w.bytes then s.byte (a + j) else 0 := by
  have hcases : j = 0 ∨ j = 1 ∨ j = 2 ∨ j = 3 := by omega
  unfold State.readBytes
  apply BitVec.eq_of_getLsbD_eq
  intro i hi
  rw [BitVec.getLsbD_extractLsb']
  cases w <;> rcases hcases with rfl | rfl | rfl | rfl <;>
    simp only [Width.bytes, BitVec.getLsbD_append, BitVec.getLsbD_setWidth, decide_eq_true hi, Bool.true_and] <;>
    (repeat' split) <;> (try omega) <;> simp [hi] <;> (try omega) <;> (try (rw [BitVec.getLsbD_of_ge _ _ (by omega)])) <;>
    (try (intro _; rfl)) <;> (try congr 1) <;> (try simp only []) <;> (try omega)

theorem State.byte_writeBytes (s : State) (a : Nat) (w : Width) (v : Word) (b : Nat) :
    (s.writeBytes a w v).byte b = if a ≤ b ∧ b < a + w.bytes then wordByte v (b - a) else s.byte b :=
  State.byte_store ..

/-! ## Operands by register number -/

theorem State.signedArg_0 (s : State) : s.signedArg 0 = s.args[0].toInt := rfl
theorem State.signedArg_1 (s : State) : s.signedArg 1 = s.args[1].toInt := rfl
theorem State.signedArg_2 (s : State) : s.signedArg 2 = s.args[2].toInt := rfl
theorem State.signedArg_3 (s : State) : s.signedArg 3 = s.args[3].toInt := rfl
theorem State.signedArg_4 (s : State) : s.signedArg 4 = s.args[4].toInt := rfl
theorem State.signedArg_5 (s : State) : s.signedArg 5 = s.args[5].toInt := rfl
theorem State.unsignedArg_0 (s : State) : s.unsignedArg 0 = s.args[0].toNat := rfl
theorem State.unsignedArg_1 (s : State) : s.unsignedArg 1 = s.args[1].toNat := rfl

/-! ## The windows lie apart -/

/-- What is read of planes, colours and LED buffer depends on memory's bytes only. -/
theorem State.planeByte_congr {s t : State} (h : ∀ a, s.byte a = t.byte a) (p : Plane) (i : Nat) : s.planeByte p i = t.planeByte p i :=
  h _

theorem State.color_congr {s t : State} {j : Nat} (h : ∀ a, colorBase + 4 * j ≤ a → a < colorBase + 4 * j + 3 → s.byte a = t.byte a) :
    s.color j = t.color j := by
  unfold State.color
  rw [h _ (by omega) (by omega), h _ (by omega) (by omega), h _ (by omega) (by omega)]

end Machine

end Sys2Proof
end

