-- ==== Sys2Proof/Laws/Commands.lean ====
section
/-! SUPPORT. What `finish` does for each code, each command's effect by the outcome of its own checks, and what a command can change at all. -/

namespace Sys2Proof.Machine

/-! ## finish -/

theorem State.finish_ok (s : State) : s.finish .ok = { s with result := .ok } := by
  simp [State.finish, ResultCode.setsErr, ResultCode.code]

theorem State.finish_rejected (s : State) : s.finish .rejected = { s with result := .rejected } := by
  simp [State.finish, ResultCode.setsErr, ResultCode.code]

theorem State.finish_errIllegal (s : State) : s.finish .errIllegal = { s with result := .errIllegal, err := true } := by
  simp [State.finish, ResultCode.setsErr, ResultCode.code]

theorem State.finish_errNocolor (s : State) : s.finish .errNocolor = { s with result := .errNocolor, err := true } := by
  simp [State.finish, ResultCode.setsErr, ResultCode.code]

theorem State.finish_errRange (s : State) : s.finish .errRange = { s with result := .errRange, err := true } := by
  simp [State.finish, ResultCode.setsErr, ResultCode.code]

/-! ## Each command by the outcome of its checks -/

theorem State.drawRect_none {t : Target} {op : Byte → Byte → Byte} {s : State} (h : s.rectArgs = none) :
    s.drawRect t op = s.finish .rejected := by
  unfold State.drawRect
  rw [h]

theorem State.drawRect_some {t : Target} {op : Byte → Byte → Byte} {s : State} {r : Rect} (h : s.rectArgs = some r) :
    s.drawRect t op =
      (s.storeRect (targetPlane t) (r.y0 / 8) (r.y1 / 8) r.x0 r.x1 fun st x =>
        op (s.planeByte (targetPlane t) (st * 128 + x)) (rowMask st r.y0 r.y1)).finish .ok := by
  unfold State.drawRect
  rw [h]

theorem State.copyRect_none {t : Target} {s : State} (h : s.copyArgs = none) : s.copyRect t = s.finish .rejected := by
  unfold State.copyRect
  rw [h]

theorem State.copyRect_some {t : Target} {s : State} {w : CopyWindow} (h : s.copyArgs = some w) :
    s.copyRect t =
      (s.storeRect (targetPlane t) (w.cs0 + w.ds).toNat (w.cs1 + w.ds).toNat (w.cx0 + w.xOff).toNat (w.cx1 + w.xOff).toNat
        fun st x => s.planeByte (targetPlane t) (w.sourceIndex st x)).finish .ok := by
  unfold State.copyRect
  rw [h]

theorem glyphFits_iff {c : Config} {size : Nat} {x y : Int} :
    glyphFits c size x y = true ↔
      (1 ≤ size ∧ size ≤ 4) ∧ 0 ≤ x ∧ 0 ≤ y ∧ y ≤ 64 - 8 * (size : Int) ∧ x ≤ 128 - (c.glyphWidth size : Int) := by
  unfold glyphFits
  split
  · simp
    omega
  · simp
    omega

theorem State.drawGlyph_fits {t : Target} {size ch : Nat} {s : State}
    (h : glyphFits s.cfg size (s.signedArg 0) (s.signedArg 1) = true) :
    s.drawGlyph t size ch =
      (s.storeRect (targetPlane t) ((s.signedArg 1).toNat / 8) ((s.signedArg 1).toNat / 8 + size - 1) (s.signedArg 0).toNat
        ((s.signedArg 0).toNat + s.cfg.glyphWidth size - 1) fun st x =>
          s.cfg.fontByte size (glyphIndex s.cfg ch) (st - (s.signedArg 1).toNat / 8) (x - (s.signedArg 0).toNat)).finish .ok := by
  unfold State.drawGlyph
  rw [if_pos h]

theorem State.drawGlyph_not {t : Target} {size ch : Nat} {s : State}
    (h : ¬ glyphFits s.cfg size (s.signedArg 0) (s.signedArg 1) = true) : s.drawGlyph t size ch = s.finish .rejected := by
  unfold State.drawGlyph
  rw [if_neg h]

theorem State.storeColor12_errRange {s : State} (h : s.cfg.maxLeds ≤ s.unsignedArg 0) : s.storeColor12 = s.finish .errRange := by
  unfold State.storeColor12
  rw [if_pos h]

theorem State.storeColor12_ok {s : State} (h : s.unsignedArg 0 < s.cfg.maxLeds) :
    s.storeColor12 = (s.storeColors (s.unsignedArg 0) 1 fun _ => hex3to6 s.rgb12).finish .ok := by
  unfold State.storeColor12
  rw [if_neg (by omega)]

theorem State.encodeLeds_errRange {s : State} (h : s.cfg.maxLeds < s.unsignedArg 0) : s.encodeLeds = s.finish .errRange := by
  unfold State.encodeLeds
  rw [if_pos h]

theorem State.encodeLeds_errNocolor {s : State} (h : s.unsignedArg 0 ≤ s.cfg.maxLeds) (h₀ : 0 < s.unsignedArg 0)
    (h₁ : s.unsignedArg 1 = 0) : s.encodeLeds = s.finish .errNocolor := by
  unfold State.encodeLeds
  rw [if_neg (by omega), if_pos ⟨h₀, h₁⟩]

theorem State.encodeLeds_ok {s : State} (h : s.unsignedArg 0 ≤ s.cfg.maxLeds) (h₁ : s.unsignedArg 0 = 0 ∨ 0 < s.unsignedArg 1) :
    s.encodeLeds = ((s.fillColors (s.unsignedArg 0) (s.unsignedArg 1)).storeFrame (s.unsignedArg 0)).finish .ok := by
  unfold State.encodeLeds
  rw [if_neg (by omega), if_neg (by omega)]

theorem State.maskChar_lineEnd (s : State) : s.maskChar 0x0A = s.newLine := by
  unfold State.maskChar
  rw [if_pos rfl]

/-- The pixel under the cursor is marked in memory only (42_mask.md R79). -/
theorem State.markPixel_eq (s : State) (ch : Nat) : s.markPixel ch = s.setMem (s.markPixel ch).mem := by
  unfold State.markPixel
  split
  · rfl
  · split <;> rfl

/-- A character other than a line end changes memory and the column only (42_mask.md R79). -/
theorem State.maskChar_eq {s : State} {ch : Nat} (h : ch ≠ 0x0A) :
    s.maskChar ch = (s.setMem (s.maskChar ch).mem).setCursor s.mcRow (min (s.mcCol + 1) 128) := by
  unfold State.maskChar
  rw [if_neg h]
  split
  · conv => lhs; rw [State.markPixel_eq]
    rfl
  · rfl

theorem bitMask_getLsbD {b k : Nat} (hk : k < 8) : (bitMask b).getLsbD k = decide (k = b) := by
  unfold bitMask
  rw [BitVec.getLsbD_shiftLeft]
  by_cases h : b ≤ k
  · by_cases h' : k = b
    · subst h'
      simp [hk]
    · have : k - b ≠ 0 := by omega
      simp [h', hk, BitVec.getLsbD_one, this]
  · have : k ≠ b := by omega
    simp [this]
    omega

/-- The rectangle of FILL and ERASE lies in the grid (41_blit.md R60). -/
theorem State.rectArgs_bounds {s : State} {r : Rect} (h : s.rectArgs = some r) :
    r.x0 ≤ r.x1 ∧ r.x1 ≤ 127 ∧ r.y0 ≤ r.y1 ∧ r.y1 ≤ 63 := by
  unfold State.rectArgs rectClip at h
  simp only [] at h
  split at h
  · cases h
  · obtain rfl := Option.some.inj h
    simp only []
    omega

/-- Source and destination of COPY lie in the plane (41_blit.md R66). -/
theorem State.copyArgs_bounds {s : State} {w : CopyWindow} (h : s.copyArgs = some w) :
    0 ≤ w.cs0 ∧ w.cs0 ≤ w.cs1 ∧ w.cs1 ≤ 7 ∧ 0 ≤ w.cx0 ∧ w.cx0 ≤ w.cx1 ∧ w.cx1 ≤ 127 ∧
    0 ≤ w.cs0 + w.ds ∧ w.cs1 + w.ds ≤ 7 ∧ 0 ≤ w.cx0 + w.xOff ∧ w.cx1 + w.xOff ≤ 127 := by
  unfold State.copyArgs copyClip at h
  simp only [] at h
  split at h
  · cases h
  · obtain rfl := Option.some.inj h
    simp only []
    omega

/-! ## What a command can change -/

/-- Memory, the cursor, LEDLEN and STATUS are all a command can change, and it ends with one finish (40_command_cycle.md R53, R54). -/
theorem exec_shape (i : Instr) (s : State) :
    ∃ (m : Memory) (row col : Nat) (len : BitVec 16) (code : ResultCode),
      exec i s = .next (({ s with mem := m, mcRow := row, mcCol := col, ledlen := len } : State).finish code) := by
  have rect : ∀ t op, ∃ (m : Memory) (row col : Nat) (len : BitVec 16) (code : ResultCode),
      s.drawRect t op = ({ s with mem := m, mcRow := row, mcCol := col, ledlen := len } : State).finish code := by
    intro t op
    unfold State.drawRect
    split <;> exact ⟨_, s.mcRow, s.mcCol, s.ledlen, _, rfl⟩
  cases i with
  | nop => exact ⟨s.mem, s.mcRow, s.mcCol, s.ledlen, .ok, rfl⟩
  | fill t =>
    obtain ⟨m, row, col, len, code, h⟩ := rect t fun old m => old ||| m
    exact ⟨m, row, col, len, code, congrArg Host.Outcome.next h⟩
  | erase t =>
    obtain ⟨m, row, col, len, code, h⟩ := rect t fun old m => old &&& ~~~m
    exact ⟨m, row, col, len, code, congrArg Host.Outcome.next h⟩
  | copy t =>
    simp only [exec, execCopy, State.copyRect]
    split <;> exact ⟨_, s.mcRow, s.mcCol, s.ledlen, _, rfl⟩
  | glyph t size c =>
    simp only [exec, execGlyph, State.drawGlyph]
    split <;> exact ⟨_, s.mcRow, s.mcCol, s.ledlen, _, rfl⟩
  | composite => exact ⟨_, s.mcRow, s.mcCol, s.ledlen, .ok, rfl⟩
  | maskinit => exact ⟨_, 0, 0, s.ledlen, .ok, rfl⟩
  | maskchar ch =>
    simp only [exec, execMaskchar, State.maskChar]
    split
    · exact ⟨s.mem, _, 0, s.ledlen, .ok, rfl⟩
    · split
      · unfold State.markPixel
        split
        · exact ⟨_, s.mcRow, _, s.ledlen, .ok, rfl⟩
        · split <;> exact ⟨_, s.mcRow, _, s.ledlen, .ok, rfl⟩
      · exact ⟨s.mem, s.mcRow, _, s.ledlen, .ok, rfl⟩
  | color12 =>
    simp only [exec, execColor12, State.storeColor12]
    split <;> exact ⟨_, s.mcRow, s.mcCol, s.ledlen, _, rfl⟩
  | encode =>
    simp only [exec, execEncode, State.encodeLeds]
    split
    · exact ⟨s.mem, s.mcRow, s.mcCol, s.ledlen, .errRange, rfl⟩
    · split
      · exact ⟨s.mem, s.mcRow, s.mcCol, s.ledlen, .errNocolor, rfl⟩
      · exact ⟨_, s.mcRow, s.mcCol, _, .ok, rfl⟩

end Sys2Proof.Machine
end

