-- ==== Sys2Proof/Laws/Bus.lean ====
section
/-! SUPPORT. The address map as facts about offsets, and what a step does with each access. -/

namespace Sys2Proof.Machine

/-! ## The address map (20_memory.md R27) -/

/-- Every offset lies in the register region, in a plane window, in the colour window, in the LED buffer window, or is reserved. -/
theorem locate_cases (c : Config) (a : Nat) :
    (a < 0x28 ∧ locate c a = registerAt (a / 4)) ∨ (∃ p : Plane, (p.base ≤ a ∧ a < p.base + 1024) ∧ locate c a = .plane p) ∨
    ((0x2000 ≤ a ∧ a < 0x2000 + 4 * c.maxLeds) ∧ locate c a = .color) ∨
    ((0x4000 ≤ a ∧ a < 0x4000 + (12 * c.maxLeds + 8)) ∧ locate c a = .ledbuf) ∨
    (((0x28 ≤ a ∧ a < 0x400) ∨ (0x1400 ≤ a ∧ a < 0x2000) ∨ (0x2000 + 4 * c.maxLeds ≤ a ∧ a < 0x4000) ∨
      0x4000 + (12 * c.maxLeds + 8) ≤ a) ∧ locate c a = .reserved) := by
  generalize hl : locate c a = place
  unfold locate at hl
  split_ifs at hl with hreg <;> subst hl
  · exact .inl ⟨hreg, rfl⟩
  · exact .inr (.inr (.inr (.inr ⟨by omega, rfl⟩)))
  · exact .inr (.inl ⟨.fb, by simp only [Plane.base]; omega, rfl⟩)
  · exact .inr (.inl ⟨.andm, by simp only [Plane.base]; omega, rfl⟩)
  · exact .inr (.inl ⟨.orm, by simp only [Plane.base]; omega, rfl⟩)
  · exact .inr (.inl ⟨.out, by simp only [Plane.base]; omega, rfl⟩)
  · exact .inr (.inr (.inr (.inr ⟨by omega, rfl⟩)))
  · exact .inr (.inr (.inl ⟨by omega, rfl⟩))
  · exact .inr (.inr (.inr (.inr ⟨by omega, rfl⟩)))
  · exact .inr (.inr (.inr (.inl ⟨by omega, rfl⟩)))
  · exact .inr (.inr (.inr (.inr ⟨by omega, rfl⟩)))

theorem locate_plane {c : Config} {p : Plane} {a : Nat} (h : p.base ≤ a ∧ a < p.base + 1024) : locate c a = .plane p := by
  have hp := p.base_bounds
  rcases locate_cases c a with ⟨h', -⟩ | ⟨q, h', hl⟩ | ⟨h', -⟩ | ⟨h', -⟩ | ⟨h', -⟩
  · omega
  · by_cases hpq : p = q
    · rw [hl, hpq]
    · have hapart := Plane.base_apart hpq
      omega
  all_goals omega

theorem locate_color {c : Config} {a : Nat} (h : 0x2000 ≤ a ∧ a < 0x2000 + 4 * c.maxLeds) : locate c a = .color := by
  have hM := c.maxLeds_le
  rcases locate_cases c a with ⟨h', -⟩ | ⟨q, h', -⟩ | ⟨-, hl⟩ | ⟨h', -⟩ | ⟨h', -⟩
  · omega
  · have hq := q.base_bounds
    omega
  · exact hl
  all_goals omega

theorem locate_ledbuf {c : Config} {a : Nat} (h : 0x4000 ≤ a ∧ a < 0x4000 + (12 * c.maxLeds + 8)) : locate c a = .ledbuf := by
  have hM := c.maxLeds_le
  rcases locate_cases c a with ⟨h', -⟩ | ⟨q, h', -⟩ | ⟨h', -⟩ | ⟨-, hl⟩ | ⟨h', -⟩
  · omega
  · have hq := q.base_bounds
    omega
  · omega
  · exact hl
  · omega

/-- An aligned word of the register region is one of the ten registers. -/
theorem registerAt_ne_reserved {a : Nat} (h : a < 0x28) :
    registerAt (a / 4) ∈ [Place.cmd, .status, .arg 0, .arg 1, .arg 2, .arg 3, .arg 4, .arg 5, .ledlen, .maskcur] := by
  have h' : a / 4 = 0 ∨ a / 4 = 1 ∨ a / 4 = 2 ∨ a / 4 = 3 ∨ a / 4 = 4 ∨ a / 4 = 5 ∨ a / 4 = 6 ∨ a / 4 = 7 ∨ a / 4 = 8 ∨ a / 4 = 9 := by
    omega
  rcases h' with h | h | h | h | h | h | h | h | h | h <;> rw [h] <;> decide

/-! ## One step by the access it makes -/

theorem step_read {s : State} {off : BitVec 16} {w : Width} {rest : List HostOp} (h : s.pending = .read off w :: rest) :
    step s = (s.setPending rest).hostRead off w := by
  simp only [step, State.serve, h, State.hostOp]

theorem step_write {s : State} {off : BitVec 16} {w : Width} {v : Word} {rest : List HostOp} (h : s.pending = .write off w v :: rest) :
    step s = (s.setPending rest).hostWrite off w v := by
  simp only [step, State.serve, h, State.hostOp]

theorem step_resetPulse {s : State} {rest : List HostOp} (h : s.pending = .reset :: rest) :
    step s = .next (s.setPending rest).resetEvent := by
  simp only [step, State.serve, h, State.hostOp]

theorem step_commandWrite {s : State} {w : Word} {rest : List HostOp} (h : s.pending = commandWrite w :: rest) :
    step s = commandCycle w (s.answered rest .written) := by
  rw [step_write h]
  rfl

theorem State.hostRead_admitted {s : State} {off : BitVec 16} {w : Width} (h : readAdmitted s.cfg off w = true) :
    s.hostRead off w = .next (s.respond (.data (s.readValue off w))) := by
  unfold State.hostRead
  rw [if_pos h]

theorem State.hostRead_refused {s : State} {off : BitVec 16} {w : Width} (h : ¬ readAdmitted s.cfg off w = true) :
    s.hostRead off w = s.busError off := by
  unfold State.hostRead
  rw [if_neg h]

theorem State.hostWrite_admitted {s : State} {off : BitVec 16} {w : Width} {v : Word} (h : writeAdmitted s.cfg off w = true) :
    s.hostWrite off w v = (s.respond .written).writePlace (locate s.cfg off.toNat) off w v := by
  unfold State.hostWrite
  rw [if_pos h]

theorem State.hostWrite_refused {s : State} {off : BitVec 16} {w : Width} {v : Word} (h : ¬ writeAdmitted s.cfg off w = true) :
    s.hostWrite off w v = s.busError off := by
  unfold State.hostWrite
  rw [if_neg h]

/-- A bus error stops, or answers and changes nothing else (60_exceptions.md R93). -/
theorem State.busError_cases {s t : State} {off : BitVec 16} (h : s.busError off = .next t) : t = s.respond (.error off) := by
  unfold State.busError at h
  split at h
  · cases h
  · exact (Host.Outcome.next.inj h).symm

/-- What a write that answers a next state can have done: a bus error answered; a command; or a change of ERR, of one operand register, or of
stored bytes. -/
theorem State.hostWrite_cases {s t : State} {off : BitVec 16} {w : Width} {v : Word} (h : s.hostWrite off w v = .next t) :
    t = s.respond (.error off) ∨
    (writeAdmitted s.cfg off w = true ∧
      ((locate s.cfg off.toNat = .cmd ∧ commandCycle v (s.respond .written) = .next t) ∨
       (locate s.cfg off.toNat = .status ∧ t = (s.respond .written).writeStatus v) ∨
       (∃ n, locate s.cfg off.toNat = .arg n ∧ t = (s.respond .written).setArg n (v.extractLsb' 0 16)) ∨
       (∃ p, locate s.cfg off.toNat = .plane p ∧ p ≠ .out ∧ t = (s.respond .written).writeBytes off.toNat w v) ∨
       (locate s.cfg off.toNat = .color ∧
         t = (s.respond .written).storeColors ((off.toNat - colorBase) / 4) 1 fun _ => v.extractLsb' 0 24))) := by
  by_cases ha : writeAdmitted s.cfg off w = true
  · rw [State.hostWrite_admitted ha] at h
    have hw : (locate s.cfg off.toNat).admitsWrite w = true := by
      unfold writeAdmitted at ha
      exact (Bool.and_eq_true _ _ ▸ ha).2
    refine .inr ⟨ha, ?_⟩
    generalize hl : locate s.cfg off.toNat = p at h hw
    cases p with
    | cmd => exact .inl ⟨rfl, h⟩
    | status => exact .inr (.inl ⟨rfl, (Host.Outcome.next.inj h).symm⟩)
    | arg n => exact .inr (.inr (.inl ⟨n, rfl, (Host.Outcome.next.inj h).symm⟩))
    | plane q =>
      refine .inr (.inr (.inr (.inl ⟨q, rfl, ?_, (Host.Outcome.next.inj h).symm⟩)))
      rintro rfl
      cases hw
    | color => exact .inr (.inr (.inr (.inr ⟨rfl, (Host.Outcome.next.inj h).symm⟩)))
    | ledlen => cases hw
    | maskcur => cases hw
    | ledbuf => cases hw
    | reserved => cases hw
  · rw [State.hostWrite_refused ha] at h
    exact .inl (State.busError_cases h)

/-- An admitted read answers its value and changes nothing else (20_memory.md R35). -/
theorem step_readAdmitted {s : State} {off : BitVec 16} {w : Width} {rest : List HostOp} (h : s.pending = .read off w :: rest)
    (ha : readAdmitted s.cfg off w = true) : step s = .next (s.answered rest (.data (s.readValue off w))) := by
  rw [step_read h, State.hostRead_admitted (s := s.setPending rest) ha]
  rfl

/-- An admitted write has the effect of the row it falls in. -/
theorem step_writeAdmitted {s : State} {off : BitVec 16} {w : Width} {v : Word} {rest : List HostOp}
    (h : s.pending = .write off w v :: rest) (ha : writeAdmitted s.cfg off w = true) :
    step s = (s.answered rest .written).writePlace (locate s.cfg off.toNat) off w v := by
  rw [step_write h, State.hostWrite_admitted (s := s.setPending rest) ha]
  rfl

/-- What a step that answers a next state can have done: nothing (the engine is idle), a read answered, a reset pulse, or a write. -/
theorem step_cases {s t : State} (h : step s = .next t) :
    (s.pending = [] ∧ t = s) ∨
    (∃ rest off w r, s.pending = .read off w :: rest ∧ t = s.answered rest r) ∨
    (∃ rest, s.pending = .reset :: rest ∧ t = (s.setPending rest).resetEvent) ∨
    (∃ rest off w v, s.pending = .write off w v :: rest ∧ (s.setPending rest).hostWrite off w v = .next t) := by
  cases hp : s.pending with
  | nil =>
    simp only [step, State.serve, hp] at h
    exact .inl ⟨rfl, (Host.Outcome.next.inj h).symm⟩
  | cons op rest =>
    cases op with
    | read off w =>
      rw [step_read hp] at h
      unfold State.hostRead at h
      split at h
      · exact .inr (.inl ⟨rest, off, w, _, rfl, (Host.Outcome.next.inj h).symm⟩)
      · exact .inr (.inl ⟨rest, off, w, _, rfl, State.busError_cases h⟩)
    | reset =>
      rw [step_resetPulse hp] at h
      exact .inr (.inr (.inl ⟨rest, rfl, (Host.Outcome.next.inj h).symm⟩))
    | write off w v =>
      rw [step_write hp] at h
      exact .inr (.inr (.inr ⟨rest, off, w, v, rfl, h⟩))

/-- One more step of a run. -/
theorem core_run_next {s t : State} (n : Nat) (h : step s = .next t) : Host.Core.run core (n + 1) s = Host.Core.run core n t := by
  have h' : core.step s = .next t := h
  simp only [Host.Core.run, h']

theorem core_run_one (s : State) : Host.Core.run core 1 s = step s := by
  have h : core.step s = step s := rfl
  simp only [Host.Core.run, h]
  cases step s <;> rfl

end Sys2Proof.Machine
end

