-- ==== Sys2Proof/Laws/Decode.lean ====
section
/-! SUPPORT. The command word and its fields say the same (30_encoding.md R42), and the fields of an encoded command. -/

namespace Sys2Proof

/-- Splitting a word that was put together gives its fields back. -/
theorem fieldsOf_wordOf (f : Fields) : fieldsOf (wordOf f) = f := by
  obtain ⟨rsv2, imm8, rsv1, size, rsv0, tgt, opc⟩ := f
  simp only [fieldsOf, wordOf, Fields.mk.injEq]
  refine ⟨?_, ?_, ?_, ?_, ?_, ?_, ?_⟩ <;>
  · ext i hi
    simp only [BitVec.getElem_extractLsb', BitVec.getLsbD_append]
    repeat' split
    all_goals first
      | omega
      | (rw [BitVec.getLsbD_eq_getElem (by omega)]; congr 1; omega)

/-- Putting the fields of a word together gives the word back. -/
theorem wordOf_fieldsOf (w : Word) : wordOf (fieldsOf w) = w := by
  simp only [fieldsOf, wordOf]
  ext i hi
  simp only [BitVec.getElem_append, BitVec.getElem_extractLsb']
  repeat' split
  all_goals (rw [BitVec.getLsbD_eq_getElem (by omega)]; congr 1; omega)

theorem fieldsOf_encode (i : Instr) :
    fieldsOf (encode i) =
      { rsv2 := 0, imm8 := i.imm8, rsv1 := 0, size := i.sizeField, rsv0 := 0, tgt := i.tgt, opc := i.opcode } :=
  fieldsOf_wordOf _

@[simp] theorem targetOf_code (t : Target) : targetOf t.code = some t := by cases t <;> rfl

theorem targetOf_eq_some {b : BitVec 2} {t : Target} : targetOf b = some t ↔ b = t.code := by
  constructor
  · intro h
    revert h
    revert b t
    decide
  · rintro rfl
    exact targetOf_code t

theorem targetOf_eq_none {b : BitVec 2} : targetOf b = none ↔ b = 3 := by
  revert b
  decide

/-- A command has an assigned opcode (30_encoding.md R45). -/
theorem Instr.opcode_le (i : Instr) : i.opcode.toNat ≤ 9 := by cases i <;> simp [Instr.opcode]

end Sys2Proof
end

