-- ==== Sys2Proof/Laws/PerInstr.lean ====
section
/-! SUPPORT. The statements made of every command as syntax, one lemma a constructor. -/

namespace Sys2Proof.Laws

/-- The reserved fields of a command's word are 0, it has its opcode, and its target field is no reserved target (30_encoding.md R42, R43,
R45, R46). -/
def EncodedFields.Statement (i : Instr) : Prop :=
  (fieldsOf (encode i)).rsv0 = 0 ∧ (fieldsOf (encode i)).rsv1 = 0 ∧ (fieldsOf (encode i)).rsv2 = 0 ∧
    (fieldsOf (encode i)).opc = i.opcode ∧ (fieldsOf (encode i)).tgt ≠ 3

theorem EncodedFields.of_tgt {i : Instr} (h : i.tgt ≠ 3) : EncodedFields.Statement i := by
  unfold EncodedFields.Statement
  rw [fieldsOf_encode]
  exact ⟨rfl, rfl, rfl, rfl, h⟩

theorem target_code_ne_three (t : Target) : t.code ≠ 3 := by cases t <;> decide

theorem EncodedFields.nop : EncodedFields.Statement .nop := EncodedFields.of_tgt (by decide)
theorem EncodedFields.fill (t : Target) : EncodedFields.Statement (.fill t) := EncodedFields.of_tgt (target_code_ne_three t)
theorem EncodedFields.erase (t : Target) : EncodedFields.Statement (.erase t) := EncodedFields.of_tgt (target_code_ne_three t)
theorem EncodedFields.copy (t : Target) : EncodedFields.Statement (.copy t) := EncodedFields.of_tgt (target_code_ne_three t)
theorem EncodedFields.glyph (t : Target) (size c : Nat) : EncodedFields.Statement (.glyph t size c) :=
  EncodedFields.of_tgt (target_code_ne_three t)
theorem EncodedFields.composite : EncodedFields.Statement .composite := EncodedFields.of_tgt (by decide)
theorem EncodedFields.maskinit : EncodedFields.Statement .maskinit := EncodedFields.of_tgt (by decide)
theorem EncodedFields.maskchar (ch : Nat) : EncodedFields.Statement (.maskchar ch) :=
  EncodedFields.of_tgt (show (0 : BitVec 2) ≠ 3 by decide)
theorem EncodedFields.color12 : EncodedFields.Statement .color12 := EncodedFields.of_tgt (by decide)
theorem EncodedFields.encode : EncodedFields.Statement .encode := EncodedFields.of_tgt (by decide)

end Sys2Proof.Laws
end

