-- ==== Sys2Proof/Tests/Slice0.lean ====
section
/-! SUPPORT. Tests: expected results are those of 95_test_vectors.md (the section stands at each), worked out there from the rules; and for every
statement with hypotheses a witness `witness_<Name>`: concrete states and operands that meet them, clause by clause. -/

namespace Sys2Proof.Tests

open Sys2Proof Sys2Proof.Machine

/-! ## Small states -/

/-- The example configuration of 95_test_vectors.md: MAX_LEDS = 8, plain masks, the glyphs of its section 2.5. -/
def cfg : Config where
  ledCapacity := 7
  gw1 := 5
  gw2 := 11
  gw3 := 17
  gw4 := 23
  glyphLo := .code33
  font := [{ size := 1, glyph := 33, row := 0, bytes := [0x7E, 0x11, 0x11, 0x11, 0x7E, 0x00] },
    { size := 2, glyph := 33, row := 0, bytes := [0xA0, 0xA1, 0xA2, 0xA3, 0xA4, 0xA5, 0xA6, 0xA7, 0xA8, 0xA9, 0xAA, 0xAB] },
    { size := 2, glyph := 33, row := 1, bytes := [0xB0, 0xB1, 0xB2, 0xB3, 0xB4, 0xB5, 0xB6, 0xB7, 0xB8, 0xB9, 0xBA, 0xBB] }]
  maskAnd := []
  maskOr := []
  spiHz := 3125000
  base := 0
  busErrorResponse := .goesOn

/-- The engine after reset with that configuration and unspecified bytes 0. -/
def s0 : State := State.resetWith cfg [] 0

/-- `s` with the operands given. -/
def withArgs (s : State) (a0 a1 a2 a3 a4 a5 : Int) : State :=
  { s with args := #v[BitVec.ofInt 16 a0, BitVec.ofInt 16 a1, BitVec.ofInt 16 a2, BitVec.ofInt 16 a3, BitVec.ofInt 16 a4,
      BitVec.ofInt 16 a5] }

def ops (a0 a1 a2 a3 : Int) : State := withArgs s0 a0 a1 a2 a3 0 0

/-- The next state of an outcome. -/
def nextOf (o : Host.Outcome State Fault Refusal) : Option State :=
  match o with
  | .next t => some t
  | .fault _ => none
  | .refused _ => none

/-- What `f` reads after command `i`. -/
def after {α : Type} (i : Instr) (s : State) (f : State → α) : Option α := (nextOf (exec i s)).map f

/-- What `f` reads after a step that makes the access `op`. -/
def bus {α : Type} (op : HostOp) (s : State) (f : State → α) : Option α := (nextOf (step { s with pending := [op] })).map f

/-! ## Well-formedness: each check refuses an ill-formed term -/

theorem test_glyph_size_8_ill_formed : Instr.wellFormed (.glyph .fb 8 65) = false := by decide
theorem test_glyph_code_256_ill_formed : Instr.wellFormed (.glyph .fb 1 256) = false := by decide
theorem test_maskchar_256_ill_formed : Instr.wellFormed (.maskchar 256) = false := by decide

/-! ## Decoding: words from 95_test_vectors.md 2.1 and 30_encoding.md R46, R49 -/

theorem test_decode_nop : decode 0x00000000 = .ok .nop := by decide
theorem test_decode_fill : decode 0x00000101 = .ok (.fill .andm) := by decide
theorem test_decode_erase : decode 0x00000002 = .ok (.erase .fb) := by decide
theorem test_decode_copy : decode 0x00000203 = .ok (.copy .orm) := by decide
theorem test_decode_glyph : decode 0x00412104 = .ok (.glyph .andm 2 65) := by decide
theorem test_decode_composite : decode 0x00000005 = .ok .composite := by decide
theorem test_decode_maskinit : decode 0x00000006 = .ok .maskinit := by decide
theorem test_decode_maskchar : decode 0x000A0007 = .ok (.maskchar 10) := by decide
theorem test_decode_color12 : decode 0x00000008 = .ok .color12 := by decide
theorem test_decode_encode : decode 0x00000009 = .ok .encode := by decide
theorem test_decode_tgt_3 : decode 0x00005304 = .error .illegalTarget := by decide
theorem test_decode_rsv : decode 0x01000005 = .error .reservedField := by decide
theorem test_decode_table_word : decodeTableWord 32 0x00580007 = some (.maskchar 0x58) := by decide
theorem test_step_runs_fetched_word :
    (nextOf (step ((ops 0 0 0 0).withFetchWord 32 0x00000001))).map (fun t => (t.planeByte .fb 0, t.cmd)) = some (0x01, 0x00000001) := by
  decide

/-! ## One command -/

theorem test_nop : after .nop { s0 with err := true, result := .errIllegal } State.statusWord = some 0x00000100 := by decide

/-- 2.3: `fill.fb 0, 3, 1, 10`. -/
theorem test_fill : after (.fill .fb) (ops 0 3 1 10)
    (fun t => [t.planeByte .fb 0, t.planeByte .fb 1, t.planeByte .fb 2, t.planeByte .fb 128, t.planeByte .fb 129]) =
    some [0xF8, 0xF8, 0x00, 0x07, 0x07] := by decide
/-- 2.3: `fill.fb -5, 0, -1, 0`. -/
theorem test_fill_rejected : after (.fill .fb) (ops (-5) 0 (-1) 0) (fun t => (t.statusWord, t.mem)) = some (1, []) := by decide

/-- 2.3: `erase.and 0, 0, 3, 7`. -/
theorem test_erase : after (.erase .andm) (ops 0 0 3 7) (fun t => [t.planeByte .andm 0, t.planeByte .andm 3, t.planeByte .andm 4]) =
    some [0x00, 0x00, 0xFF] := by decide
/-- 2.3: `erase.fb 2, 1, 2, 1` over 0xFF. -/
theorem test_erase_one_bit : after (.erase .fb) { ops 2 1 2 1 with mem := [(0x402, 0xFF)] } (fun t => t.mem) = some [(0x402, 0xFD)] := by
  decide

/-- 2.4: FB[1..4] = 11 22 33 44. -/
def copyStart (a0 a1 a2 a3 a4 a5 : Int) : State :=
  withArgs { s0 with mem := [(0x401, 0x11), (0x402, 0x22), (0x403, 0x33), (0x404, 0x44)] } a0 a1 a2 a3 a4 a5

/-- 2.4: overlap, moving left. -/
theorem test_copy_left : after (.copy .fb) (copyStart 1 0 4 0 (-1) 0) (fun t => t.mem) =
    some [(0x400, 0x11), (0x401, 0x22), (0x402, 0x33), (0x403, 0x44), (0x404, 0x44)] := by decide
/-- 2.4: `copy.fb 1, -3, 1, 9, 0, 16` with FB[129] = 0x77. -/
theorem test_copy_down : after (.copy .fb) (withArgs { s0 with mem := [(0x401, 0x11), (0x481, 0x77)] } 1 (-3) 1 9 0 16)
    (fun t => [t.planeByte .fb 257, t.planeByte .fb 385, t.planeByte .fb 1]) = some [0x11, 0x77, 0x11] := by decide

/-- 2.5: `glyph.fb 10, 13, 'A', 1`. -/
theorem test_glyph : after (.glyph .fb 1 65) (ops 10 13 0 0) (fun t => t.mem) =
    some [(0x48A, 0x7E), (0x48B, 0x11), (0x48C, 0x11), (0x48D, 0x11), (0x48E, 0x7E)] := by decide
/-- 2.5: `glyph.fb 0, 49, 'A', 2` is rejected, `glyph.and 0, 48, 'A', 2` is drawn. -/
theorem test_glyph_size_2 : after (.glyph .andm 2 65) (ops 0 49 0 0) State.statusWord = some 1 ∧
    after (.glyph .andm 2 65) (ops 0 48 0 0) (fun t => [t.planeByte .andm 768, t.planeByte .andm 907]) = some [0xA0, 0xBB] := by decide

/-- 2.6: FB 0x0F, ORM 0xF0, ANDM 0x3C. -/
theorem test_composite :
    after .composite { s0 with mem := [(0x403, 0x0F), (0x803, 0x3C), (0xC03, 0xF0)] } (fun t => t.planeByte .out 3) = some 0x3C := by
  simp only [after, nextOf, exec, execComposite, Option.map, State.finish_planeByte, State.compose]
  rw [State.planeByte_storePlane _ _ _ _ (by decide), if_pos rfl]
  decide

/-- 2.7: a second MASKINIT restores the default and rewinds the cursor. -/
theorem test_maskinit :
    after .maskinit { s0 with mem := [(0x800, 0xFC)], mcRow := 0, mcCol := 2 } (fun t => (t.planeByte .andm 0, t.maskcurWord)) =
      some (0xFF, 0) := by
  simp only [after, nextOf, exec, execMaskinit, Option.map, State.finish_planeByte, State.setCursor_planeByte, State.loadMasks]
  rw [State.planeByte_storePlane _ _ _ _ (by decide), if_neg (by decide), State.planeByte_storePlane _ _ _ _ (by decide), if_pos rfl]
  rfl

/-- 2.7: LF × 7, '.', '+'. -/
theorem test_maskchar_or : after (.maskchar 0x2B) { s0 with mcRow := 7, mcCol := 1 } (fun t => (t.mem, t.maskcurWord)) =
    some ([(0xC01, 0x80)], 0x00070002) := by decide
/-- 2.7: row 8 is stripe 1, bit 0. -/
theorem test_maskchar_and : after (.maskchar 0x58) { s0 with mcRow := 8, mcCol := 0 } (fun t => (t.mem, t.maskcurWord)) =
    some ([(0x880, 0xFE)], 0x00080001) := by decide

/-- 2.8: ARG1 bits 15..12 are not read. -/
theorem test_color12 : after .color12 (ops 4 0xF123 0 0) (fun t => (t.color 4, t.result)) = some (0x112233, .ok) := by decide
/-- 2.8: index 8 of MAX_LEDS = 8. -/
theorem test_color12_range : after .color12 (ops 8 0x0FFF 0 0) (fun t => (t.statusWord, t.mem)) = some (0x00000104, []) := by decide

/-- 2.9: 0x123456. -/
theorem test_encode :
    after .encode (State.storeColors 0 1 (fun _ => 0x123456) (ops 1 1 0 0)) (fun t => (List.range 20).map t.ledByte) =
      some [0, 0, 0, 0, 0x22, 0x66, 0x26, 0x22, 0x22, 0x26, 0x22, 0x62, 0x26, 0x26, 0x26, 0x62, 0, 0, 0, 0] := by
  decide +kernel
/-- L1-7: the cyclic fill, and the frame length. -/
theorem test_encode_cyclic :
    after .encode (State.storeColors 1 1 (fun _ => 0x002000) (State.storeColors 0 1 (fun _ => 0x100000) (ops 4 2 0 0)))
      (fun t => (t.color 2, t.color 3, t.ledlenWord)) = some (0x100000, 0x002000, 56) := by decide +kernel

/-! ## The bus: 95_test_vectors.md 2.2 -/

theorem test_arg_upper_half_ignored : bus (.write 0x0008 .b4 0x12345678) s0 (fun t => t.args[0]) = some 0x5678 := by decide
theorem test_plane_write_bytes : bus (.write 0x0400 .b4 0x44332211) s0 (fun t => t.mem) =
    some [(0x400, 0x11), (0x401, 0x22), (0x402, 0x33), (0x403, 0x44)] := by decide
theorem test_plane_read_half :
    bus (.read 0x0402 .b2) { s0 with mem := [(0x402, 0x33), (0x403, 0x44)] } (fun t => t.resp) = some (.data 0x4433) := by decide
theorem test_misaligned : bus (.write 0x0401 .b2 0xBEEF) s0 (fun t => (t.resp, t.mem)) = some (.error 0x0401, []) := by decide
theorem test_color_window : bus (.write 0x2000 .b4 0xFF123456) s0 (fun t => t.color 0) = some 0x123456 := by decide
theorem test_color_window_end : bus (.write 0x2020 .b4 0) s0 (fun t => t.resp) = some (.error 0x2020) := by decide
theorem test_cmd_narrow : bus (.write 0x0000 .b2 0x0005) s0 (fun t => (t.resp, t.cmd)) = some (.error 0x0000, 0) := by decide
theorem test_status_write_clears_err_only :
    bus (.write 0x0004 .b4 0x00000007) { s0 with err := true, result := .errIllegal } State.statusWord = some 0x00000102 := by decide
theorem test_bus_error_may_end_the_program :
    step { s0 with cfg := { cfg with busErrorResponse := .endsProgram }, pending := [.write 0x1000 .b1 0] } =
      .fault (.busError 0x1000) := rfl

/-! ## Witnesses: the hypotheses of every statement are met -/

/-- The state of a step that writes the word to CMD. -/
def cmdState (s : State) (w : Word) : State := { s with pending := [commandWrite w] }

theorem witness_DecodeOfEncodeGivesTheCommand :
    Instr.wellFormed (.glyph .orm 7 255) = true ∧ Instr.wellFormed (.maskchar 255) = true ∧ Instr.wellFormed .encode = true := by decide

theorem witness_LegalWordIsTheWordOfItsCommand : decode 0x00FF7204 = .ok (.glyph .orm 7 255) := by decide

theorem witness_LegalWordsAreThoseOfTheTables : ¬ legalByFields 0x0000000A ∧ ¬ legalByFields 0x00000301 ∧ legalByFields 0x00005004 := by
  unfold legalByFields
  decide

theorem witness_StepRunsTheDecodedCommand :
    ((cmdState s0 0x00000001).pending = commandWrite 0x00000001 :: [] ∧ decode 0x00000001 = .ok (.fill .fb)) ∧
    ((cmdState s0 0x000000FF).pending = commandWrite 0x000000FF :: [] ∧ decode 0x000000FF = .error .reservedOpcode) := by decide

theorem witness_EveryWordPerformsOrIsIllegal :
    (cmdState s0 0x0000000A).pending = commandWrite 0x0000000A :: [] ∧ 0x0A ≤ ((0x0000000A : Word).extractLsb' 0 8).toNat ∧
    (cmdState s0 0).pending = commandWrite 0 :: [] := by decide

theorem witness_FinishSetsErrFromTheCode : 2 ≤ ResultCode.errIllegal.code.toNat ∧ ResultCode.rejected.code.toNat < 2 := by decide

theorem witness_ResultCodesOfEachCommand :
    (rectOutside (ops 128 0 200 5) ∧ ¬ rectOutside (ops 127 63 200 70)) ∧
    (copySourceEmpty (withArgs s0 0 0 127 63 128 0) ∧ ¬ copySourceEmpty (withArgs s0 0 0 127 63 127 0)) ∧
    (glyphDoesNotFit 1 (ops 123 0 0 0) ∧ ¬ glyphDoesNotFit 1 (ops 122 56 0 0)) ∧
    (nextOf (commandCycle 0x00000009 (ops 1 0 0 0))).map (fun u => u.result) = some .errNocolor ∧
    (nextOf (commandCycle 0x00000303 (ops 0 0 0 0))).map (fun u => u.result) = some .errIllegal := by decide

theorem witness_CommandNotOkChangesStatusOnly :
    after (.fill .fb) (ops 128 0 200 5) (fun u => u.result) = some .rejected ∧
    after .encode (ops 1 0 0 0) (fun u => u.result) = some .errNocolor := by decide

theorem witness_RectangleIsNormalisedAndClipped :
    rectClip 127 63 127 63 = some { x0 := 127, y0 := 63, x1 := 127, y1 := 63 } ∧ rectClip (-5) (-5) 0 0 ≠ none ∧
    rectClip 128 0 200 5 = none := by decide

theorem witness_MasksAreTheTouchedBits :
    ((0 : Nat) ≤ 7 ∧ (7 : Nat) ≤ 7 ∧ (7 : Nat) < 8) ∧ ((0 : Nat) ≤ 63 ∧ (63 : Nat) ≤ 63 ∧ 0 / 8 ≤ 7 ∧ 7 ≤ 63 / 8 ∧ (7 : Nat) < 8) := by
  decide

/-- The whole plane, from corners far outside the grid. -/
theorem witness_FillSetsAndEraseClearsThePixels :
    rectClip ((ops (-32768) (-32768) 32767 32767).signedArg 0) ((ops (-32768) (-32768) 32767 32767).signedArg 1)
      ((ops (-32768) (-32768) 32767 32767).signedArg 2) ((ops (-32768) (-32768) 32767 32767).signedArg 3) =
      some { x0 := 0, y0 := 0, x1 := 127, y1 := 63 } := by decide

theorem witness_FillAndEraseFrame :
    Instr.erase .orm ∈ [Instr.fill .orm, Instr.erase .orm] ∧
    (ops 127 63 127 63).rectArgs = some { x0 := 127, y0 := 63, x1 := 127, y1 := 63 } ∧
    (∀ r, (ops 127 63 127 63).rectArgs = some r → ¬ inRect .orm (r.y0 / 8) (r.y1 / 8) r.x0 r.x1 0x0FFE) := by
  have h : (ops 127 63 127 63).rectArgs = some { x0 := 127, y0 := 63, x1 := 127, y1 := 63 } := by decide
  refine ⟨by decide, h, fun r hr => ?_⟩
  obtain rfl := Option.some.inj (h.symm.trans hr)
  rintro ⟨-, -, h', -⟩
  exact absurd h' (by decide)

theorem witness_FillThenEraseAndEraseThenFill : (ops 1 2 2 12).rectArgs = some { x0 := 1, y0 := 2, x1 := 2, y1 := 12 } := by decide

theorem witness_RejectionConditions :
    Instr.fill .fb ∈ [Instr.fill .fb, Instr.erase .fb] ∧ after (.erase .fb) (ops 0 64 3 70) (fun u => u.result) = some .rejected ∧
    after (.copy .fb) (copyStart 0 0 127 7 0 (-1)) (fun u => u.result) = some .rejected ∧
    after (.glyph .fb 1 65) (ops 123 0 0 0) (fun u => u.result) = some .rejected := by decide

theorem witness_CopyIsClippedAtTheSource :
    copyClip 120 0 127 0 4 0 = some { cs0 := 0, cs1 := 0, cx0 := 120, cx1 := 123, ds := 0, xOff := 4 } ∧
    copyClip 0 0 127 63 0 0 = some { cs0 := 0, cs1 := 7, cx0 := 0, cx1 := 127, ds := 0, xOff := 0 } ∧
    ((0 : Int) ≤ ((7 : Nat) : Int) ∧ ((7 : Nat) : Int) ≤ 7) ∧ ((0 : Int) ≤ ((127 : Nat) : Int) ∧ ((127 : Nat) : Int) ≤ 127) := by decide

theorem witness_CopyMovesTheOldBytes :
    (copyStart 1 0 4 0 (-1) 0).copyArgs = some { cs0 := 0, cs1 := 0, cx0 := 1, cx1 := 4, ds := 0, xOff := -1 } ∧
    ((0 : Int) ≤ ((0 : Nat) : Int) ∧ (((0 : Nat) : Int) ≤ 0)) ∧ ((1 : Int) ≤ ((4 : Nat) : Int) ∧ ((4 : Nat) : Int) ≤ 4) ∧
    ¬ inRect .fb 0 0 0 3 0x0404 := by
  refine ⟨by decide, by decide, by decide, ?_⟩
  rintro ⟨-, -, -, h⟩
  exact absurd h (by decide)

theorem witness_CopyByNothingChangesNothing :
    (Memory.wf (copyStart 0 0 127 63 0 7).unwritten (copyStart 0 0 127 63 0 7).mem ∧ (copyStart 0 0 127 63 0 7).signedArg 4 = 0 ∧
      0 ≤ (copyStart 0 0 127 63 0 7).signedArg 5 ∧ (copyStart 0 0 127 63 0 7).signedArg 5 ≤ 7) ∧
    128 ≤ (copyStart 0 0 127 63 128 0).signedArg 4 ∧ (copyStart 0 0 127 63 (-128) 0).signedArg 4 ≤ -128 := by decide

theorem witness_GlyphReplacesBytesWithFontBytes :
    ¬ (1 ≤ 0 ∧ (0 : Nat) ≤ 4) ∧ ¬ (1 ≤ 5 ∧ (5 : Nat) ≤ 4) ∧ (ops (-1) 0 0 0).signedArg 0 < 0 ∧ (ops 0 (-8) 0 0).signedArg 1 < 0 ∧
    64 - 8 * ((1 : Nat) : Int) < (ops 0 57 0 0).signedArg 1 ∧ 128 - (s0.cfg.glyphWidth 1 : Int) < (ops 123 0 0 0).signedArg 0 ∧
    ((ops 122 56 0 0).signedArg 0 = (122 : Nat) ∧ (ops 122 56 0 0).signedArg 1 = (56 : Nat) ∧ 56 + 8 * 1 ≤ 64 ∧
      122 + (ops 122 56 0 0).cfg.glyphWidth 1 ≤ 128) := by decide

/-- One pixel of each kind: masked off, forced on, and as FB has it. -/
theorem witness_CompositeGivesEachPixel :
    State.pixel { s0 with mem := [(0x800, 0xFE)] } .andm 0 0 = false ∧
    (State.pixel { s0 with mem := [(0xFFF, 0x80)] } .andm 127 63 = true ∧
      State.pixel { s0 with mem := [(0xFFF, 0x80)] } .orm 127 63 = true) ∧
    s0.pixel .andm 5 5 = true ∧ s0.pixel .orm 5 5 = false := by decide

theorem witness_CompositeDependsOnThreePlanes :
    (∀ p ∈ [Plane.fb, Plane.andm, Plane.orm], ∀ i, i < 1024 →
      s0.planeByte p i = State.planeByte (State.setPlaneByte .out 3 0xFF s0) p i) ∧
    s0.planeByte .out 3 ≠ State.planeByte (State.setPlaneByte .out 3 0xFF s0) .out 3 ∧ Memory.wf s0.unwritten s0.mem := by
  refine ⟨fun p hp i hi => ?_, by decide, Memory.wf_nil _⟩
  rw [State.planeByte_setPlaneByte _ _ _ _ (by decide) hi, if_neg]
  rintro ⟨rfl, -⟩
  simp at hp

theorem witness_MaskinitLoadsTheDefaults :
    (1023 : Nat) < 1024 ∧ ¬ (Plane.andm.base ≤ 0x1000 ∧ 0x1000 < Plane.orm.base + 1024) := by decide

theorem witness_LineEndMovesToTheNextRow : State.mcRow { s0 with mcRow := 64 } = 64 := rfl

theorem witness_MaskCharacterMarksThePixelUnderTheCursor :
    (0x58 : Nat) ≠ 0x0A ∧ ((127 : Nat) < 128 ∧ (63 : Nat) < 64) ∧
    State.cursorIndex { s0 with mcRow := 63, mcCol := 127 } = 1023 := by decide

theorem witness_MaskTextIsAppliedLineByLine :
    textChar [0x2E, 0x58, 0x0A, 0x2B] 0 1 = some 0x58 ∧ textChar [0x2E, 0x58, 0x0A, 0x2B] 1 0 = some 0x2B ∧
    textChar [0x2E, 0x58, 0x0A, 0x2B] 1 1 = none := by decide

/-- Two states whose planes differ in bit 7 only agree in bit 0. -/
theorem witness_PlaneBitsDoNotMix :
    ∀ (p : Plane) (k : Nat), k < 1024 →
      (s0.planeByte p k).getLsbD 0 = (State.planeByte (State.setPlaneByte .fb 0 0x80 s0) p k).getLsbD 0 := by
  intro p k hk
  rw [State.planeByte_setPlaneByte _ _ _ _ (by decide) hk]
  split
  · rename_i h
    obtain ⟨rfl, rfl⟩ := h
    decide
  · rfl

theorem witness_Color12DoublesTheDigits :
    (ops 8 0 0 0).cfg.maxLeds ≤ (ops 8 0 0 0).unsignedArg 0 ∧ (ops 7 0xF00 0 0).unsignedArg 0 < (ops 7 0xF00 0 0).cfg.maxLeds := by
  decide

theorem witness_EncodeFillsTheColoursCyclically :
    ((ops 8 0 0 0).unsignedArg 0 ≤ (ops 8 0 0 0).cfg.maxLeds ∧ 0 < (ops 8 0 0 0).unsignedArg 0 ∧ (ops 8 0 0 0).unsignedArg 1 = 0) ∧
    ((ops 8 1 0 0).unsignedArg 0 ≤ (ops 8 1 0 0).cfg.maxLeds ∧ 0 < (ops 8 1 0 0).unsignedArg 1 ∧
      (ops 8 1 0 0).unsignedArg 1 ≤ 7 ∧ 7 < (ops 8 1 0 0).unsignedArg 0) ∧
    ((ops 0 0 0 0).unsignedArg 0 ≤ (ops 0 0 0 0).cfg.maxLeds ∧ (ops 0 0 0 0).unsignedArg 0 = 0) := by decide

theorem witness_EncodeLaysOutTheFrame :
    ((ops 8 8 0 0).unsignedArg 0 ≤ (ops 8 8 0 0).cfg.maxLeds ∧ 0 < (ops 8 8 0 0).unsignedArg 1 ∧ 7 < (ops 8 8 0 0).unsignedArg 0) ∧
    ((ops 0 0 0 0).unsignedArg 0 ≤ (ops 0 0 0 0).cfg.maxLeds ∧ (ops 0 0 0 0).unsignedArg 0 = 0) := by decide

theorem witness_EncodeSetsTheFrameLength :
    (after .encode (ops 8 8 0 0) (fun u => u.result) = some .ok ∧ after .encode (ops 1 0 0 0) (fun u => u.result) = some .errNocolor) ∧
    (ops 9 0 0 0).cfg.maxLeds < (ops 9 0 0 0).unsignedArg 0 := by decide

theorem witness_EncodeFrame :
    (¬ (ledBase ≤ 0x4014 ∧ 0x4014 < ledBase + (12 * (ops 1 1 0 0).unsignedArg 0 + 8)) ∧
      ¬ (colorBase + 4 * (ops 1 1 0 0).unsignedArg 1 ≤ 0x4014 ∧ 0x4014 < colorBase + 4 * (ops 1 1 0 0).unsignedArg 0)) ∧
    after .encode (ops 9 9 0 0) (fun u => u.result) = some .errRange := by decide

theorem witness_WireCarriesTheColours :
    ((ops 1 1 0 0).unsignedArg 0 ≤ (ops 1 1 0 0).cfg.maxLeds ∧ 0 < (ops 1 1 0 0).unsignedArg 1 ∧ 0 < (ops 1 1 0 0).unsignedArg 0) ∧
    cfg.spiHz = 3125000 := by decide

/-- A misaligned read, a narrow read of a register, a reserved offset, a read-only offset, and the last offsets before them. -/
theorem witness_RefusedAccessIsABusErrorWithoutEffect :
    (refusedAccess cfg 0x0401 2 ∧ refusedAccess cfg 0x0004 1 ∧ refusedAccess cfg 0x2000 1 ∧ refusedAccess cfg 0x0028 4 ∧
      refusedAccess cfg 0x1400 4 ∧ refusedAccess cfg 0x2020 4 ∧ refusedAccess cfg 0xFFFC 4) ∧
    (readOnlyOffset cfg 0x0020 ∧ readOnlyOffset cfg 0x1000 ∧ readOnlyOffset cfg 0x4067) ∧
    (¬ refusedAccess cfg 0x0024 4 ∧ ¬ refusedAccess cfg 0x13FF 1 ∧ ¬ refusedAccess cfg 0x201C 4 ∧ ¬ refusedAccess cfg 0x4067 1) ∧
    (¬ refusedAccess cfg 0x001C 4 ∧ ¬ readOnlyOffset cfg 0x001C) ∧ (¬ refusedAccess cfg 0x0FFF 1 ∧ ¬ readOnlyOffset cfg 0x0FFF) ∧
    cfg.busErrorResponse = .goesOn := by
  have h : cfg.maxLeds = 8 := rfl
  unfold refusedAccess readOnlyOffset reservedOffset
  refine ⟨?_, ?_, ?_, ?_, ?_, rfl⟩ <;> omega

theorem witness_ReadsHaveNoSideEffect :
    State.pending { s0 with pending := [.read 0x4064 .b4, .read 0x4064 .b4] } = .read 0x4064 .b4 :: .read 0x4064 .b4 :: [] ∧
    readAdmitted s0.cfg 0x4064 .b4 = true := by decide

theorem witness_RegisterAccesses :
    (argOffset 0 = 0x0008 ∧ argOffset 5 = 0x001C) ∧
    State.pending { s0 with pending := [.write (argOffset 5) .b4 1] } = .write (argOffset (5 : Fin 6)) .b4 1 :: [] ∧
    State.pending { s0 with pending := [.write 0x0004 .b4 0x100] } = .write 0x0004 .b4 0x100 :: [] ∧
    State.pending { s0 with pending := [.read 0x0024 .b4] } = .read 0x0024 .b4 :: [] ∧ (s0.mcRow ≤ 64 ∧ s0.mcCol ≤ 128) ∧
    ((0x0027#16).toNat < 0x0028 ∧ Width.b1 ≠ .b4) ∧ 0x0020#16 ∈ [0x0020#16, 0x0024#16] := by decide

theorem witness_PlaneWindowAccesses :
    ((1020 : Nat) < 1024 ∧ 1020 % Width.b4.bytes = 0) ∧ ((1023 : Nat) < 1024 ∧ 1023 % Width.b1.bytes = 0) ∧ Plane.orm ≠ .out ∧
    State.pending { s0 with pending := [.read (BitVec.ofNat 16 (Plane.fb.base + 1023)) .b1] } =
      .read (BitVec.ofNat 16 (Plane.fb.base + 1023)) .b1 :: [] ∧
    State.pending { s0 with pending := [.write (BitVec.ofNat 16 (Plane.orm.base + 1020)) .b4 7] } =
      .write (BitVec.ofNat 16 (Plane.orm.base + 1020)) .b4 7 :: [] ∧
    State.pending { s0 with pending := [.write (BitVec.ofNat 16 (Plane.out.base + 1020)) .b4 7] } =
      .write (BitVec.ofNat 16 (Plane.out.base + 1020)) .b4 7 :: [] := by decide

theorem witness_ColourWindowAccesses :
    7 < s0.cfg.maxLeds ∧ Width.b2 ≠ .b4 ∧ (3 : Nat) < 4 ∧
    State.pending { s0 with pending := [.write (BitVec.ofNat 16 (0x2000 + 4 * 7)) .b4 7] } =
      .write (BitVec.ofNat 16 (0x2000 + 4 * 7)) .b4 7 :: [] := by decide

theorem witness_LedWindowAccesses :
    (103 < 12 * s0.cfg.maxLeds + 8 ∧ 103 % Width.b1.bytes = 0) ∧ (100 < 12 * s0.cfg.maxLeds + 8 ∧ 100 % Width.b4.bytes = 0) ∧
    State.pending { s0 with pending := [.read (BitVec.ofNat 16 (0x4000 + 103)) .b1] } =
      .read (BitVec.ofNat 16 (0x4000 + 103)) .b1 :: [] ∧
    State.pending { s0 with pending := [.write (BitVec.ofNat 16 (0x4000 + 100)) .b4 7] } =
      .write (BitVec.ofNat 16 (0x4000 + 100)) .b4 7 :: [] := by decide

theorem witness_WideReadsSeeTheBytes :
    readAdmitted s0.cfg 0x13FC .b4 = true ∧ 0x0400 ≤ (0x13FC#16).toNat ∧ ¬ (0x2000 ≤ (0x13FC#16).toNat ∧ (0x13FC#16).toNat < 0x4000) ∧
    3 < Width.b4.bytes := by decide

theorem witness_EveryStepKeepsTheInvariant : s0.Inv ∧ ∃ t, step (cmdState (ops 0 0 0 0) 0x00000001) = .next t ∧ t.mem = [(0x400, 0x01)] := by
  refine ⟨⟨Memory.wf_nil _, ?_, by decide, by decide, .inl rfl⟩, _, rfl, by decide⟩
  intro cell h
  cases h

theorem witness_ResetValues : State.pending { s0 with pending := [.reset], mcRow := 3 } = .reset :: [] := by decide

theorem witness_UnspecifiedBytesAreFree :
    State.pending { s0 with pending := [.read 0x13FF .b1] } = .read 0x13FF .b1 :: [] ∧
    (0x0400 ≤ (0x13FF#16).toNat ∧ (0x13FF#16).toNat < 0x1400) ∧
    (0x4000 ≤ (0x4067#16).toNat ∧ (0x4067#16).toNat < 0x4000 + 12 * s0.cfg.maxLeds + 8) ∧
    7 < s0.cfg.maxLeds ∧ State.pending { s0 with pending := [.read (BitVec.ofNat 16 (0x2000 + 4 * 7)) .b4] } =
      .read (BitVec.ofNat 16 (0x2000 + 4 * 7)) .b4 :: [] := by decide

theorem witness_IdleEngineDoesNothing : s0.pending = [] := rfl

theorem witness_AccessesAreTakenInOrder : ∃ t, step { s0 with pending := [.read 0x0400 .b1, .reset] } = .next t := ⟨_, rfl⟩

theorem witness_ErrIsSticky :
    ((resultCodeOfWord 0x00000009 (ops 1 0 0 0)).code ∈ [2, 3, 4] ∧ (resultCodeOfWord 0x00000001 (ops 128 0 200 5)).code ∈ [0, 1] ∧
      (resultCodeOfWord 0x00000000 s0).code ∈ [0, 1] ∧ (resultCodeOfWord 0x0000000A s0).code ∈ [2, 3, 4]) ∧ (0x100 : Word).getLsbD 8 = true ∧
    State.pending { s0 with pending := [.reset] } = .reset :: [] ∧
    ∃ t, step { s0 with err := true, pending := [.write 0x0004 .b4 0x100] } = .next t ∧ t.err = false :=
  ⟨by decide, by decide, rfl, _, rfl, rfl⟩

theorem witness_OutChangesOnlyAtComposite :
    ∃ t, step (cmdState { s0 with mem := [(0x7FF, 0x80)] } 0x00000005) = .next t ∧
      t.planeByte .out 1023 ≠ (cmdState { s0 with mem := [(0x7FF, 0x80)] } 0x00000005).planeByte .out 1023 := by
  refine ⟨_, rfl, ?_⟩
  rw [State.finish_planeByte, State.compose, State.planeByte_storePlane _ _ _ _ (by decide), if_pos rfl]
  decide

theorem witness_LedFrameChangesOnlyAtEncode :
    ∃ t, step (cmdState (ops 0 0 0 0) 0x00000009) = .next t ∧ t.ledlen ≠ (cmdState (ops 0 0 0 0) 0x00000009).ledlen :=
  ⟨_, rfl, by decide⟩

theorem witness_PoliteHostRunsWithoutFault :
    State.politeHost { s0 with pending := [commandWrite 0x00000005, .read 0x1000 .b1, .reset, .write 0x0FFC .b4 1] } = true := by decide

theorem witness_CanonicalMemoriesThatReadAlikeAreEqual :
    Memory.wf (fun _ => 0#8) [(0x400, 1#8), (0x401, 2#8)] ∧ Memory.wf (fun _ => 0#8) ([] : Memory) := by
  refine ⟨⟨by decide, by decide⟩, Memory.wf_nil _⟩

theorem witness_CommandLineWritesOperandsThenRuns :
    (∀ v ∈ (AsmLine.row (.fill .fb (-32768) 65535 0 1)).2.2, -32768 ≤ v ∧ v ≤ 65535) ∧
    ((AsmLine.row (.glyph .orm (-1) 65535 255 7)).1.wellFormed = true ∧ (AsmLine.row (.glyph .orm (-1) 65535 255 7)).2.1 = 0x00FF7204) ∧
    (AsmLine.expand (.glyph .orm (-1) 65535 255 7)).map List.length = some 3 ∧
    (AsmLine.row (.maskchar 255)).1.wellFormed = true ∧ (AsmLine.expand .composite).map List.length = some 1 ∧
    ∃ v ∈ (AsmLine.row (.color12 0 65536)).2.2, v < -32768 ∨ 65535 < v := by decide

theorem witness_PixelPseudoSetsOnePixel :
    ((127 : Nat) < 128 ∧ (63 : Nat) < 64) ∧ (Pseudo.expand cfg (.pixel .fb 127 63)).map List.length = some 5 := by decide

theorem witness_NarrowReadsAreRecordedZeroExtended :
    State.pending { s0 with pending := [.read 0x0402 .b2] } = .read 0x0402 .b2 :: [] ∧ readAdmitted s0.cfg 0x0402 .b2 = true ∧
    Width.b2.bytes ≤ 2 := by decide

end Sys2Proof.Tests
end

section
/-! SUPPORT. The ranges of the implementation parameters of 00_scope.md R6. -/

namespace Sys2Proof

/-- The two codes that `GLYPH_LO` can be, one for each constructor of its type. -/
theorem Config.glyphLoCode_eq_or (c : Config) : c.glyphLoCode = 32 ∨ c.glyphLoCode = 33 := by
  unfold Config.glyphLoCode
  cases c.glyphLo with
  | code32 => exact .inl rfl
  | code33 => exact .inr rfl

/-- Settles O56, one lemma for each parameter: `MAX_LEDS`, `GW(size)`, `GLYPH_LO`. -/
theorem parametersAreInRange : Obligations.ParametersAreInRange := fun c =>
  ⟨⟨c.one_le_maxLeds, c.maxLeds_le⟩, c.glyphWidth_bounds, c.glyphLoCode_eq_or⟩

end Sys2Proof
end

section
/-! SUPPORT. The model's canonical form of memory (log 6) is canonical: its cells are what its reads say. -/

namespace Sys2Proof.Machine

/-- A canonical memory lists exactly the addresses that read otherwise than unlisted ones do, each with the byte it reads as. -/
theorem Memory.mem_iff_read {d : Nat → Byte} {m : Memory} (h : Memory.wf d m) (cell : Host.Cell) :
    cell ∈ m ↔ Memory.read d m cell.1 = cell.2 ∧ cell.2 ≠ d cell.1 := by
  obtain ⟨hsorted, hlisted⟩ := h
  constructor
  · intro hc
    exact ⟨Memory.read_of_mem hsorted hc, hlisted cell hc⟩
  · rintro ⟨hread, hne⟩
    have haddr : cell.1 ∈ m.map Prod.fst := by
      by_contra hno
      exact hne (hread.symm.trans (Memory.read_unlisted hno))
    obtain ⟨cell', hc', heq⟩ := List.mem_map.1 haddr
    have hbyte : cell'.2 = cell.2 := by rw [← Memory.read_of_mem hsorted hc', heq, hread]
    exact Prod.ext heq hbyte ▸ hc'

/-- Settles O55: two canonical memories that read alike have the same cells, and a strictly rising list is determined by its members. -/
theorem canonicalMemoriesThatReadAlikeAreEqual : Obligations.CanonicalMemoriesThatReadAlikeAreEqual := by
  intro d m₁ m₂ h₁ h₂ hread
  have hmem : ∀ cell, cell ∈ m₁ ↔ cell ∈ m₂ := fun cell => by
    rw [Memory.mem_iff_read h₁, Memory.mem_iff_read h₂, hread]
  have hirrefl : Std.Irrefl fun x y : Host.Cell => x.1 < y.1 := ⟨fun x => Nat.lt_irrefl x.1⟩
  have hantisymm : Std.Antisymm fun x y : Host.Cell => x.1 < y.1 := ⟨fun _ _ hxy hyx => absurd hyx (Nat.lt_asymm hxy)⟩
  exact h₁.1.eq_of_mem_iff h₂.1 hmem

end Sys2Proof.Machine
end

section
/-! SUPPORT. The invariant of the engine (10_state.md R13, R21, R22) is kept by every operation on the state, and so by every command, by every host
write, and by every step. -/

namespace Sys2Proof.Machine

/-! ## Operations on fields outside the invariant -/

theorem State.Inv.finish {s : State} (h : s.Inv) (code : ResultCode) : (s.finish code).Inv :=
  ⟨h.memory, h.bounds, h.row, h.col, h.ledlen⟩

theorem State.Inv.setCmd {s : State} (h : s.Inv) (w : Word) : (s.setCmd w).Inv :=
  ⟨h.memory, h.bounds, h.row, h.col, h.ledlen⟩

theorem State.Inv.setArg {s : State} (h : s.Inv) (n : Fin 6) (v : Half) : (s.setArg n v).Inv :=
  ⟨h.memory, h.bounds, h.row, h.col, h.ledlen⟩

theorem State.Inv.writeStatus {s : State} (h : s.Inv) (v : Word) : (s.writeStatus v).Inv :=
  ⟨h.memory, h.bounds, h.row, h.col, h.ledlen⟩

theorem State.Inv.setPending {s : State} (h : s.Inv) (ops : List HostOp) : (s.setPending ops).Inv :=
  ⟨h.memory, h.bounds, h.row, h.col, h.ledlen⟩

theorem State.Inv.respond {s : State} (h : s.Inv) (r : BusResponse) : (s.respond r).Inv :=
  ⟨h.memory, h.bounds, h.row, h.col, h.ledlen⟩

/-! ## The cursor, LEDLEN and reset -/

theorem State.Inv.setCursor {s : State} (h : s.Inv) {row col : Nat} (hrow : row ≤ 64) (hcol : col ≤ 128) : (s.setCursor row col).Inv :=
  ⟨h.memory, h.bounds, hrow, hcol, h.ledlen⟩

/-- A frame's length fits LEDLEN's 16 bits, so that what is kept of it is the length itself (10_state.md R21). -/
theorem State.Inv.setLedlen {s : State} (h : s.Inv) {count : Nat} (hc : count ≤ s.cfg.maxLeds) : (s.setLedlen (12 * count + 8)).Inv := by
  have hmax := s.cfg.maxLeds_le
  have hfits : (BitVec.ofNat 16 (12 * count + 8)).toNat = 12 * count + 8 := Nat.mod_eq_of_lt (by omega)
  exact ⟨h.memory, h.bounds, h.row, h.col, .inr ⟨count, hc, hfits⟩⟩

theorem State.Inv.resetWith (c : Config) (d : List Host.Cell) (n : Nat) : (State.resetWith c d n).Inv :=
  ⟨Memory.wf_nil _, fun _ hc => absurd hc List.not_mem_nil, Nat.zero_le _, Nat.zero_le _, .inl rfl⟩

theorem State.Inv.resetEvent (s : State) : s.resetEvent.Inv := (State.Inv.resetWith ..).setPending s.pending

/-! ## Stores -/

/-- A store keeps the invariant if it lists no offset outside storage; it always keeps the canonical form. -/
theorem State.Inv.store {s : State} (h : s.Inv) {lo n : Nat} {f : Nat → Byte} (hb : (s.store lo n f).inBounds) : (s.store lo n f).Inv :=
  ⟨State.wf_store h.memory lo n f, hb, h.row, h.col, h.ledlen⟩

/-- A store inside the four planes' windows. -/
theorem State.Inv.storeInPlanes {s : State} (h : s.Inv) {lo n : Nat} (hlo : 0x0400 ≤ lo) (hhi : lo + n ≤ 0x1400) (f : Nat → Byte) :
    (s.store lo n f).Inv :=
  h.store (State.inBounds_store h.bounds fun _ h₁ h₂ _ => isStorage_plane (by omega))

theorem State.Inv.storePlane {s : State} (h : s.Inv) (p : Plane) (f : Nat → Byte) : (s.storePlane p f).Inv :=
  h.storeInPlanes p.base_bounds.1 p.base_bounds.2 _

theorem State.Inv.setPlaneByte {s : State} (h : s.Inv) (p : Plane) {i : Nat} (hi : i < 1024) (v : Byte) : (s.setPlaneByte p i v).Inv := by
  have hp := p.base_bounds
  exact h.storeInPlanes (by omega) (by omega) _

theorem State.Inv.storeRect {s : State} (h : s.Inv) (p : Plane) {s0 s1 x0 x1 : Nat} (hs : s1 ≤ 7) (hx : x1 ≤ 127) (g : Nat → Nat → Byte) :
    (s.storeRect p s0 s1 x0 x1 g).Inv :=
  h.store (State.inBounds_storeRect h.bounds p hs hx g)

theorem State.Inv.storeColors {s : State} (h : s.Inv) {lo n : Nat} (hn : lo + n ≤ s.cfg.maxLeds) (g : Nat → Color) :
    (s.storeColors lo n g).Inv :=
  h.store (State.inBounds_storeColors h.bounds hn g)

theorem State.Inv.storeLed {s : State} (h : s.Inv) {n : Nat} (hn : n ≤ ledBytes s.cfg) (f : Nat → Byte) : (s.storeLed n f).Inv :=
  h.store (State.inBounds_storeLed h.bounds hn f)

/-! ## The commands' effects -/

theorem State.Inv.drawRect {s : State} (h : s.Inv) (t : Target) (op : Byte → Byte → Byte) : (s.drawRect t op).Inv := by
  cases hr : s.rectArgs with
  | none => exact State.drawRect_none hr ▸ h.finish .rejected
  | some r =>
    obtain ⟨-, hx, -, hy⟩ := State.rectArgs_bounds hr
    exact State.drawRect_some hr ▸ (h.storeRect _ (by omega) hx _).finish .ok

theorem State.Inv.copyRect {s : State} (h : s.Inv) (t : Target) : (s.copyRect t).Inv := by
  cases hw : s.copyArgs with
  | none => exact State.copyRect_none hw ▸ h.finish .rejected
  | some w =>
    have hb := State.copyArgs_bounds hw
    exact State.copyRect_some hw ▸ (h.storeRect _ (by omega) (by omega) _).finish .ok

theorem State.Inv.drawGlyph {s : State} (h : s.Inv) (t : Target) (size ch : Nat) : (s.drawGlyph t size ch).Inv := by
  by_cases hf : glyphFits s.cfg size (s.signedArg 0) (s.signedArg 1) = true
  · have hfit := glyphFits_iff.1 hf
    have hw := s.cfg.glyphWidth_bounds size
    exact State.drawGlyph_fits hf ▸ (h.storeRect _ (by omega) (by omega) _).finish .ok
  · exact State.drawGlyph_not hf ▸ h.finish .rejected

theorem State.Inv.loadMasks {s : State} (h : s.Inv) : s.loadMasks.Inv := (h.storePlane .andm _).storePlane .orm _

theorem State.Inv.newLine {s : State} (h : s.Inv) : s.newLine.Inv := h.setCursor (Nat.min_le_right ..) (Nat.zero_le _)

/-- A cursor on the grid is at a byte of the plane (42_mask.md R79). -/
theorem State.Inv.markPixel {s : State} (h : s.Inv) (hrow : s.mcRow < 64) (hcol : s.mcCol < 128) (ch : Nat) : (s.markPixel ch).Inv := by
  have hi : s.cursorIndex < 1024 := by
    unfold State.cursorIndex
    omega
  unfold State.markPixel
  split_ifs
  · exact h.setPlaneByte .andm hi _
  · exact h.setPlaneByte .orm hi _
  · exact h

theorem State.Inv.maskChar {s : State} (h : s.Inv) (ch : Nat) : (s.maskChar ch).Inv := by
  unfold State.maskChar
  split_ifs with hend hgrid
  · exact h.newLine
  · exact (h.markPixel hgrid.1 hgrid.2 ch).setCursor h.row (Nat.min_le_right ..)
  · exact h.setCursor h.row (Nat.min_le_right ..)

theorem State.Inv.storeColor12 {s : State} (h : s.Inv) : s.storeColor12.Inv := by
  rcases Nat.lt_or_ge (s.unsignedArg 0) s.cfg.maxLeds with hlt | hge
  · exact State.storeColor12_ok hlt ▸ (h.storeColors hlt _).finish .ok
  · exact State.storeColor12_errRange hge ▸ h.finish .errRange

/-- The cyclic fill ends at the LED count; with no fewer colours supplied than LEDs it stores nothing, wherever S lies (43_ws2812.md R86). -/
theorem State.Inv.fillColors {s : State} (h : s.Inv) {count : Nat} (hc : count ≤ s.cfg.maxLeds) (supplied : Nat) :
    (s.fillColors count supplied).Inv := by
  rcases Nat.le_total supplied count with hle | hge
  · exact h.storeColors (by omega) _
  · exact h.store (State.inBounds_store h.bounds fun a h₁ h₂ _ => by omega)

theorem State.Inv.storeFrame {s : State} (h : s.Inv) {count : Nat} (hc : count ≤ s.cfg.maxLeds) : (s.storeFrame count).Inv := by
  have hfits : 12 * count + 8 ≤ ledBytes s.cfg := by
    unfold ledBytes
    omega
  exact (h.storeLed hfits _).setLedlen hc

theorem State.Inv.encodeLeds {s : State} (h : s.Inv) : s.encodeLeds.Inv := by
  unfold State.encodeLeds
  split_ifs with hrange
  · exact h.finish .errRange
  · exact h.finish .errNocolor
  · have hc : s.unsignedArg 0 ≤ s.cfg.maxLeds := Nat.le_of_not_lt hrange
    exact ((h.fillColors hc _).storeFrame hc).finish .ok

/-! ## Every command, every write, every step -/

/-- Every command answers a next state, and that state has the invariant. -/
theorem exec_keeps_inv (i : Instr) {s : State} (h : s.Inv) : ∃ u, exec i s = .next u ∧ u.Inv := by
  cases i with
  | nop => exact ⟨_, rfl, h.finish .ok⟩
  | fill t => exact ⟨_, rfl, h.drawRect t _⟩
  | erase t => exact ⟨_, rfl, h.drawRect t _⟩
  | copy t => exact ⟨_, rfl, h.copyRect t⟩
  | glyph t size c => exact ⟨_, rfl, h.drawGlyph t size c⟩
  | composite => exact ⟨_, rfl, (h.storePlane .out _).finish .ok⟩
  | maskinit => exact ⟨_, rfl, (h.loadMasks.setCursor (Nat.zero_le _) (Nat.zero_le _)).finish .ok⟩
  | maskchar ch => exact ⟨_, rfl, (h.maskChar ch).finish .ok⟩
  | color12 => exact ⟨_, rfl, h.storeColor12⟩
  | encode => exact ⟨_, rfl, h.encodeLeds⟩

theorem commandCycle_keeps_inv (w : Word) {s : State} (h : s.Inv) : ∃ u, commandCycle w s = .next u ∧ u.Inv := by
  unfold commandCycle
  cases decode w with
  | ok i => exact exec_keeps_inv i (h.setCmd w)
  | error e => exact ⟨_, rfl, (h.setCmd w).finish .errIllegal⟩

/-- The words of the register region are no array. -/
theorem registerAt_ne_array {a : Nat} (h : a < 0x28) : (∀ p, registerAt (a / 4) ≠ .plane p) ∧ registerAt (a / 4) ≠ .color := by
  have hreg := registerAt_ne_reserved h
  constructor
  · intro p hp
    simp [hp] at hreg
  · intro hc
    simp [hc] at hreg

/-- Only the offsets of a plane's window are located in the plane (20_memory.md R27). -/
theorem bounds_of_locate_plane {c : Config} {p : Plane} {a : Nat} (h : locate c a = .plane p) : p.base ≤ a ∧ a < p.base + 1024 := by
  rcases locate_cases c a with ⟨hreg, hl⟩ | ⟨q, hq, hl⟩ | ⟨-, hl⟩ | ⟨-, hl⟩ | ⟨-, hl⟩
  · exact absurd (hl ▸ h) ((registerAt_ne_array hreg).1 p)
  · cases hl.symm.trans h
    exact hq
  all_goals cases hl.symm.trans h

/-- Only the offsets of the colour window are located in it (20_memory.md R27). -/
theorem bounds_of_locate_color {c : Config} {a : Nat} (h : locate c a = .color) : 0x2000 ≤ a ∧ a < 0x2000 + 4 * c.maxLeds := by
  rcases locate_cases c a with ⟨hreg, hl⟩ | ⟨q, -, hl⟩ | ⟨hc, -⟩ | ⟨-, hl⟩ | ⟨-, hl⟩
  · exact absurd (hl ▸ h) (registerAt_ne_array hreg).2
  · cases hl.symm.trans h
  · exact hc
  all_goals cases hl.symm.trans h

/-- An admitted write to a plane stores inside its window: the access is aligned, and its width divides the window's ends. -/
theorem State.Inv.writeBytes {s : State} (h : s.Inv) {p : Plane} {off : BitVec 16} {w : Width} (hl : locate s.cfg off.toNat = .plane p)
    (ha : writeAdmitted s.cfg off w = true) (v : Word) : (s.writeBytes off.toNat w v).Inv := by
  have hwin := bounds_of_locate_plane hl
  have hp := p.base_bounds
  have haligned : off.toNat % w.bytes = 0 := by
    unfold writeAdmitted aligned at ha
    exact of_decide_eq_true (Bool.and_eq_true_iff.1 ha).1
  refine h.storeInPlanes (by omega) ?_ _
  cases w <;> simp only [Width.bytes] at haligned ⊢ <;> omega

theorem hostWrite_keeps_inv {s t : State} {off : BitVec 16} {w : Width} {v : Word} (h : s.Inv) (hw : s.hostWrite off w v = .next t) :
    t.Inv := by
  have h' : (s.respond .written).Inv := h.respond .written
  rcases State.hostWrite_cases hw with
    rfl | ⟨ha, ⟨-, hc⟩ | ⟨-, rfl⟩ | ⟨n, -, rfl⟩ | ⟨p, hl, -, rfl⟩ | ⟨hl, rfl⟩⟩
  · exact h.respond _
  · obtain ⟨u, hu, hinv⟩ := commandCycle_keeps_inv v h'
    cases hu.symm.trans hc
    exact hinv
  · exact h'.writeStatus v
  · exact h'.setArg n _
  · exact h'.writeBytes hl ha v
  · have hwin := bounds_of_locate_color hl
    refine h'.storeColors ?_ _
    simp only [State.respond_cfg, colorBase]
    omega

/-- Settles O45, by what a step can have done: the engine idle, a read, a reset pulse, or a write. -/
theorem everyStepKeepsTheInvariant : Obligations.EveryStepKeepsTheInvariant := by
  intro s t h hstep
  rcases step_cases hstep with ⟨-, rfl⟩ | ⟨rest, off, w, r, -, rfl⟩ | ⟨rest, -, rfl⟩ | ⟨rest, off, w, v, -, hw⟩
  · exact h
  · exact (h.setPending rest).respond r
  · exact State.Inv.resetEvent _
  · exact hostWrite_keeps_inv (h.setPending rest) hw

end Sys2Proof.Machine
end

section
/-! SUPPORT. The host bus (20_memory.md R27 to R37): which rows of the map are byte arrays, what a step does with an access that is not admitted,
what is read of registers, colours and byte arrays, and what a write to each row leaves unchanged. -/

namespace Sys2Proof.Machine

/-! ## Admission -/

theorem readAdmitted_iff {c : Config} {off : BitVec 16} {w : Width} :
    readAdmitted c off w = true ↔ off.toNat % w.bytes = 0 ∧ (locate c off.toNat).admitsRead w = true := by
  simp [readAdmitted, aligned]

theorem writeAdmitted_iff {c : Config} {off : BitVec 16} {w : Width} :
    writeAdmitted c off w = true ↔ off.toNat % w.bytes = 0 ∧ (locate c off.toNat).admitsWrite w = true := by
  simp [writeAdmitted, aligned]

theorem step_readRefused {s : State} {off : BitVec 16} {w : Width} {rest : List HostOp} (h : s.pending = .read off w :: rest)
    (ha : ¬ readAdmitted s.cfg off w = true) : step s = (s.setPending rest).busError off := by
  rw [step_read h, State.hostRead_refused (s := s.setPending rest) ha]

theorem step_writeRefused {s : State} {off : BitVec 16} {w : Width} {v : Word} {rest : List HostOp}
    (h : s.pending = .write off w v :: rest) (ha : ¬ writeAdmitted s.cfg off w = true) :
    step s = (s.setPending rest).busError off := by
  rw [step_write h, State.hostWrite_refused (s := s.setPending rest) ha]

/-- The list of accesses and the last answer are nothing that a read sees. -/
@[simp] theorem State.readValue_answered (s : State) (rest : List HostOp) (r : BusResponse) (off : BitVec 16) (w : Width) :
    (s.answered rest r).readValue off w = s.readValue off w := rfl

/-! ## Widths and alignment -/

theorem Width.bytes_le (w : Width) : w.bytes ≤ 4 := by cases w <;> decide

/-- A word has four bytes. -/
theorem extractLsb'_past_width {v : Word} {j : Nat} (hj : 4 ≤ j) : v.extractLsb' (8 * j) 8 = 0#8 := by
  apply BitVec.eq_of_getLsbD_eq
  intro i hi
  rw [BitVec.getLsbD_extractLsb', BitVec.getLsbD_of_ge v _ (by omega), Bool.and_false, BitVec.getLsbD_zero]

/-- The windows' ends are multiples of the widths, so an aligned access lies in one window with its last byte too. -/
theorem Width.add_lt_of_aligned {w : Width} {a b j : Nat} (ha : a % w.bytes = 0) (hb : b % 4 = 0) (h : a < b) (hj : j < w.bytes) :
    a + j < b := by
  cases w <;> simp only [Width.bytes] at ha hj <;> omega

theorem Width.aligned_add {w : Width} {b i : Nat} (hb : b % 4 = 0) (hi : i % w.bytes = 0) : (b + i) % w.bytes = 0 := by
  cases w <;> simp only [Width.bytes] at hi ⊢ <;> omega

/-! ## The byte arrays: planes and LED buffer -/

/-- The rows of the map that hold bytes and admit a read of any width (R30, R32). -/
def Place.isByteArray : Place → Bool
  | .plane _ => true
  | .ledbuf => true
  | _ => false

theorem Place.admitsRead_of_isByteArray {p : Place} (h : p.isByteArray = true) (w : Width) : p.admitsRead w = true := by
  cases p with
  | plane q => rfl
  | ledbuf => rfl
  | _ => cases h

/-- Every row but the byte arrays admits reads of 32 bits only (R29, R31, R33). -/
theorem Place.wide_of_admitsRead {p : Place} {w : Width} (h : p.admitsRead w = true) (hp : p.isByteArray = false) : w = .b4 := by
  cases p with
  | plane q => cases hp
  | ledbuf => cases hp
  | reserved => cases h
  | _ => exact eq_of_beq h

/-- Every row but the byte arrays admits writes of 32 bits only (R29, R31 to R33). -/
theorem Place.wide_of_admitsWrite {p : Place} {w : Width} (h : p.admitsWrite w = true) (hp : p.isByteArray = false) : w = .b4 := by
  cases p with
  | plane q => cases hp
  | ledlen => cases h
  | maskcur => cases h
  | ledbuf => cases h
  | reserved => cases h
  | _ => exact eq_of_beq h

/-- OUT is the one plane that the host cannot write (R30). -/
theorem Place.admitsWrite_plane (p : Plane) (w : Width) : (Place.plane p).admitsWrite w = true ↔ p ≠ .out := by
  cases p <;> simp [Place.admitsWrite]

theorem locate_register {c : Config} {a : Nat} (h : a < 0x28) : locate c a = registerAt (a / 4) := if_pos h

theorem registerAt_isByteArray {a : Nat} (h : a < 0x28) : (registerAt (a / 4)).isByteArray = false := by
  have hregisters : ∀ p ∈ [Place.cmd, .status, .arg 0, .arg 1, .arg 2, .arg 3, .arg 4, .arg 5, .ledlen, .maskcur],
      p.isByteArray = false := by decide
  exact hregisters _ (registerAt_ne_reserved h)

/-- The offsets of the byte arrays: the four planes in a row, and the LED buffer (R27). -/
theorem locate_isByteArray_iff (c : Config) (a : Nat) :
    (locate c a).isByteArray = true ↔ (0x400 ≤ a ∧ a < 0x1400) ∨ (0x4000 ≤ a ∧ a < 0x4000 + (12 * c.maxLeds + 8)) := by
  have hM := c.maxLeds_le
  rcases locate_cases c a with ⟨ha, hl⟩ | ⟨p, ha, hl⟩ | ⟨ha, hl⟩ | ⟨ha, hl⟩ | ⟨ha, hl⟩ <;> rw [hl]
  · simp only [registerAt_isByteArray ha, Bool.false_eq_true, false_iff]
    omega
  · have hp := p.base_bounds
    simp only [Place.isByteArray, true_iff]
    omega
  · simp only [Place.isByteArray, Bool.false_eq_true, false_iff]
    omega
  · simp only [Place.isByteArray, true_iff]
    omega
  · simp only [Place.isByteArray, Bool.false_eq_true, false_iff]
    omega

/-- An aligned access that begins in a byte array lies in it whole. -/
theorem locate_isByteArray_add {c : Config} {a j : Nat} {w : Width} (h : (locate c a).isByteArray = true) (ha : a % w.bytes = 0)
    (hj : j < w.bytes) : (locate c (a + j)).isByteArray = true := by
  rcases (locate_isByteArray_iff c a).1 h with ⟨hlo, hhi⟩ | ⟨hlo, hhi⟩
  · exact (locate_isByteArray_iff ..).2 (.inl ⟨by omega, Width.add_lt_of_aligned ha rfl hhi hj⟩)
  · exact (locate_isByteArray_iff ..).2 (.inr ⟨by omega, Width.add_lt_of_aligned ha (by omega) hhi hj⟩)

/-- Past the registers and outside the colour window only a byte array admits a read. -/
theorem isByteArray_of_admitsRead {c : Config} {a : Nat} {w : Width} (h : (locate c a).admitsRead w = true) (ha : 0x400 ≤ a)
    (hcolour : ¬ (0x2000 ≤ a ∧ a < 0x4000)) : (locate c a).isByteArray = true := by
  have hM := c.maxLeds_le
  rcases locate_cases c a with ⟨ha', -⟩ | ⟨p, -, hl⟩ | ⟨ha', -⟩ | ⟨-, hl⟩ | ⟨-, hl⟩
  · omega
  · rw [hl]; rfl
  · omega
  · rw [hl]; rfl
  · rw [hl] at h
    cases h

theorem State.readValue_byteArray {s : State} {off : BitVec 16} (h : (locate s.cfg off.toNat).isByteArray = true) (w : Width) :
    s.readValue off w = s.readBytes off.toNat w := by
  unfold State.readValue
  cases hl : locate s.cfg off.toNat with
  | plane p => rfl
  | ledbuf => rfl
  | _ => rw [hl] at h; cases h

/-- A read in a byte array answers the bytes, the lowest offset in bits [7:0] (R30, R32, R34). -/
theorem step_read_byteArray {s : State} {a : Nat} {w : Width} {rest : List HostOp} (ha : a < 2 ^ 16) (haligned : a % w.bytes = 0)
    (harray : (locate s.cfg a).isByteArray = true) (h : s.pending = .read (BitVec.ofNat 16 a) w :: rest) :
    ∃ d, step s = .next (s.answered rest (.data d)) ∧ ∀ j, j < w.bytes → d.extractLsb' (8 * j) 8 = s.byte (a + j) := by
  have hoff : (BitVec.ofNat 16 a).toNat = a := Nat.mod_eq_of_lt ha
  have hadm : readAdmitted s.cfg (BitVec.ofNat 16 a) w = true :=
    readAdmitted_iff.2 (hoff.symm ▸ ⟨haligned, Place.admitsRead_of_isByteArray harray w⟩)
  refine ⟨_, step_readAdmitted h hadm, fun j hj => ?_⟩
  have hw := w.bytes_le
  rw [State.readValue_byteArray (hoff.symm ▸ harray), hoff, State.readBytes_byte s a w (by omega), if_pos hj]

/-! ## Registers and colours -/

/-- Outside the byte arrays an access of 1 or 2 bytes is a bus error (R29, R31). -/
theorem step_narrow_refused {s : State} {off : BitVec 16} {w : Width} {v : Word} {rest : List HostOp}
    (hplace : (locate s.cfg off.toNat).isByteArray = false) (hw : w ≠ .b4)
    (h : s.pending = .read off w :: rest ∨ s.pending = .write off w v :: rest) : step s = (s.setPending rest).busError off := by
  rcases h with h | h
  · exact step_readRefused h fun ha => hw (Place.wide_of_admitsRead (readAdmitted_iff.1 ha).2 hplace)
  · exact step_writeRefused h fun ha => hw (Place.wide_of_admitsWrite (writeAdmitted_iff.1 ha).2 hplace)

theorem locate_argOffset (c : Config) (n : Fin 6) : locate c (argOffset n).toNat = .arg n := by
  have hregion : (argOffset n).toNat < 0x28 := by revert n; decide
  have hword : registerAt ((argOffset n).toNat / 4) = .arg n := by revert n; decide
  rw [locate_register hregion, hword]

theorem argOffset_aligned (n : Fin 6) : (argOffset n).toNat % Width.b4.bytes = 0 := by revert n; decide

theorem step_readArg {s : State} {n : Fin 6} {rest : List HostOp} (h : s.pending = .read (argOffset n) .b4 :: rest) :
    step s = .next (s.answered rest (.data (s.args[n].setWidth 32))) := by
  have hvalue : s.readValue (argOffset n) .b4 = s.args[n].setWidth 32 := by
    unfold State.readValue
    rw [locate_argOffset]
  rw [← hvalue]
  exact step_readAdmitted h (readAdmitted_iff.2 ⟨argOffset_aligned n, by rw [locate_argOffset]; rfl⟩)

theorem step_writeArg {s : State} {n : Fin 6} {v : Word} {rest : List HostOp} (h : s.pending = .write (argOffset n) .b4 v :: rest) :
    step s = .next ((s.answered rest .written).setArg n (v.extractLsb' 0 16)) := by
  rw [step_writeAdmitted h (writeAdmitted_iff.2 ⟨argOffset_aligned n, by rw [locate_argOffset]; rfl⟩), locate_argOffset]
  rfl

theorem step_writeStatus {s : State} {v : Word} {rest : List HostOp} (h : s.pending = .write 0x0004 .b4 v :: rest) :
    step s = .next ((s.answered rest .written).writeStatus v) :=
  step_writeAdmitted h rfl

theorem State.statusWord_toNat (s : State) : s.statusWord.toNat = s.result.code.toNat + if s.err then 256 else 0 := by
  unfold State.statusWord
  cases s.result <;> cases s.err <;> rfl

theorem State.ledlenWord_toNat (s : State) : s.ledlenWord.toNat = s.ledlen.toNat :=
  BitVec.toNat_setWidth_of_le (by decide)

/-- The parts of a concatenation do not overlap, so its number is their sum. -/
theorem toNat_append_eq_add {m n : Nat} (x : BitVec m) (y : BitVec n) : (x ++ y).toNat = x.toNat * 2 ^ n + y.toNat := by
  rw [BitVec.toNat_append, ← Nat.shiftLeft_add_eq_or_of_lt y.isLt, Nat.shiftLeft_eq]

theorem State.maskcurWord_toNat {s : State} (hrow : s.mcRow ≤ 64) (hcol : s.mcCol ≤ 128) :
    s.maskcurWord.toNat = s.mcCol + 65536 * s.mcRow := by
  unfold State.maskcurWord
  simp only [toNat_append_eq_add, BitVec.toNat_ofNat]
  omega

/-- No byte of a colour entry lies past the 64 KiB window (R27, R31). -/
theorem colorOffset_toNat {c : Config} {j b : Nat} (hj : j < c.maxLeds) (hb : b < 4) :
    (BitVec.ofNat 16 (0x2000 + 4 * j + b)).toNat = 0x2000 + 4 * j + b := by
  have hM := c.maxLeds_le
  exact Nat.mod_eq_of_lt (by omega)

/-! ## What every step does to the list of accesses and to the parameters -/

theorem exec_keeps_pending_cfg {i : Instr} {s u : State} (h : exec i s = .next u) : u.pending = s.pending ∧ u.cfg = s.cfg := by
  obtain ⟨m, row, col, len, code, hshape⟩ := exec_shape i s
  cases hshape.symm.trans h
  exact ⟨rfl, rfl⟩

theorem commandCycle_keeps_pending_cfg {w : Word} {s u : State} (h : commandCycle w s = .next u) :
    u.pending = s.pending ∧ u.cfg = s.cfg := by
  unfold commandCycle at h
  cases hd : decode w with
  | ok i =>
    rw [hd] at h
    exact exec_keeps_pending_cfg (s := s.setCmd w) h
  | error e =>
    rw [hd] at h
    cases h
    exact ⟨rfl, rfl⟩

theorem hostWrite_keeps_pending_cfg {s t : State} {off : BitVec 16} {w : Width} {v : Word} (h : s.hostWrite off w v = .next t) :
    t.pending = s.pending ∧ t.cfg = s.cfg := by
  rcases State.hostWrite_cases h with rfl | ⟨-, ⟨-, hc⟩ | ⟨-, rfl⟩ | ⟨n, -, rfl⟩ | ⟨p, -, -, rfl⟩ | ⟨-, rfl⟩⟩
  case inr.inl => exact commandCycle_keeps_pending_cfg (s := s.respond .written) hc
  all_goals exact ⟨rfl, rfl⟩

/-! ## The statements -/

/-- Settles O39: the second read finds every row as the first one left it. -/
theorem readsHaveNoSideEffect : Obligations.ReadsHaveNoSideEffect := by
  intro s rest off n h ha
  refine ⟨s.readValue off n, step_readAdmitted h ha, ?_⟩
  rw [step_readAdmitted (s := s.answered (.read off n :: rest) _) rfl ha, State.readValue_answered]
  rfl

/-- Settles O40, register by register. -/
theorem registerAccesses : Obligations.RegisterAccesses := by
  intro s rest v
  refine ⟨fun n => step_writeArg, fun n => step_readArg, step_commandWrite, fun h => step_readAdmitted h rfl, fun h => ?_,
    fun h => ⟨step_readAdmitted h rfl, s.statusWord_toNat⟩, fun h => ⟨step_readAdmitted h rfl, s.ledlenWord_toNat⟩,
    fun h => ⟨step_readAdmitted h rfl, State.maskcurWord_toNat⟩, fun off hoff w hw h => ?_, fun off hoff h => ?_⟩
  · have herr : (s.err && !v.getLsbD 8) = if v.getLsbD 8 then false else s.err := by cases v.getLsbD 8 <;> simp
    rw [step_writeStatus h, ← herr]
    rfl
  · exact step_narrow_refused (locate_register hoff ▸ registerAt_isByteArray hoff) hw h
  · refine step_writeRefused h fun ha => ?_
    simp only [List.mem_cons, List.not_mem_nil, or_false] at hoff
    rcases hoff with rfl | rfl <;> cases ha

/-- Settles O41: a plane's window is a byte array, and a write to it is one store of its bytes. -/
theorem planeWindowAccesses : Obligations.PlaneWindowAccesses := by
  intro s rest p i n v hi halign
  have hp := p.base_bounds
  have hoff : (BitVec.ofNat 16 (p.base + i)).toNat = p.base + i := Nat.mod_eq_of_lt (by omega)
  have hloc : locate s.cfg (p.base + i) = .plane p := locate_plane (by omega)
  have haligned : (p.base + i) % n.bytes = 0 := Width.aligned_add (by cases p <;> rfl) halign
  have hwrite : writeAdmitted s.cfg (BitVec.ofNat 16 (p.base + i)) n = true ↔ p ≠ .out := by
    rw [writeAdmitted_iff, hoff, hloc, Place.admitsWrite_plane, and_iff_right haligned]
  refine ⟨fun h => ?_, fun hne h => ?_, fun hout h => step_writeRefused h fun ha => hwrite.1 ha hout⟩
  · obtain ⟨d, hstep, hbytes⟩ := step_read_byteArray (by omega) haligned (by rw [hloc]; rfl) h
    exact ⟨d, hstep, fun j hj => (hbytes j hj).trans (congrArg s.byte (Nat.add_assoc ..))⟩
  · have hbyte := State.byte_writeBytes (s.answered rest .written) (p.base + i) n v
    refine ⟨(s.answered rest .written).writeBytes (p.base + i) n v, ?_, rfl, fun j hj => ?_, fun a ha => ?_⟩
    · rw [step_writeAdmitted h (hwrite.2 hne), hoff, hloc]
      unfold State.writePlace
      rw [hoff]
    · unfold State.planeByte
      rw [hbyte, if_pos (by omega), ← Nat.add_assoc, Nat.add_sub_cancel_left]
      rfl
    · rw [hbyte, if_neg ha]
      rfl

/-- Settles O42: an entry's window is its word, and a write to it is one store of one colour. -/
theorem colourWindowAccesses : Obligations.ColourWindowAccesses := by
  intro s rest j v hj
  have hoff : (BitVec.ofNat 16 (0x2000 + 4 * j)).toNat = 0x2000 + 4 * j := colorOffset_toNat (b := 0) hj (by decide)
  have hloc : locate s.cfg (0x2000 + 4 * j) = .color := locate_color (by omega)
  have hindex : (0x2000 + 4 * j - colorBase) / 4 = j := by
    unfold colorBase
    omega
  have haligned : (0x2000 + 4 * j) % Width.b4.bytes = 0 := Width.aligned_add (by rfl) (Nat.mul_mod_right 4 j)
  refine ⟨fun h => ?_, fun h => ?_, fun n hn b hb h => ?_⟩
  · have hvalue : s.readValue (BitVec.ofNat 16 (0x2000 + 4 * j)) .b4 = (s.color j).setWidth 32 := by
      unfold State.readValue
      rw [hoff, hloc, hindex]
    rw [← hvalue]
    exact step_readAdmitted h (readAdmitted_iff.2 (hoff.symm ▸ ⟨haligned, hloc.symm ▸ rfl⟩))
  · refine ⟨(s.answered rest .written).storeColors j 1 fun _ => v.extractLsb' 0 24, ?_, rfl, fun k => ?_, fun a ha => ?_⟩
    · rw [step_writeAdmitted h (writeAdmitted_iff.2 (hoff.symm ▸ ⟨haligned, hloc.symm ▸ rfl⟩)), hoff, hloc]
      unfold State.writePlace
      rw [hoff, hindex]
    · have hk : (j ≤ k ∧ k < j + 1) ↔ k = j := by omega
      rw [State.color_storeColors]
      simp only [hk]
      rfl
    · rw [State.byte_storeColors]
      exact if_neg ha
  · refine step_narrow_refused ?_ hn h
    rw [colorOffset_toNat hj hb, locate_color (by omega)]
    rfl

/-- Settles O43: the LED buffer is a byte array that admits no write. -/
theorem ledWindowAccesses : Obligations.LedWindowAccesses := by
  intro s rest k n v hk halign
  have hM := s.cfg.maxLeds_le
  have hloc : locate s.cfg (0x4000 + k) = .ledbuf := locate_ledbuf (by omega)
  constructor
  · intro h
    obtain ⟨d, hstep, hbytes⟩ := step_read_byteArray (by omega) (Width.aligned_add rfl halign) (by rw [hloc]; rfl) h
    exact ⟨d, hstep, fun j hj => (hbytes j hj).trans (congrArg s.byte (Nat.add_assoc ..))⟩
  · intro h
    refine step_writeRefused h fun ha => ?_
    have hadmits := (writeAdmitted_iff.1 ha).2
    rw [show (BitVec.ofNat 16 (0x4000 + k)).toNat = 0x4000 + k from Nat.mod_eq_of_lt (by omega), hloc] at hadmits
    cases hadmits

/-- Settles O44: with its first byte an aligned access has every byte in the same byte array. -/
theorem wideReadsSeeTheBytes : Obligations.WideReadsSeeTheBytes := by
  intro s off n hadm hregister hcolour j hj
  have hw := n.bytes_le
  have hlt := off.isLt
  obtain ⟨haligned, hadmits⟩ := readAdmitted_iff.1 hadm
  have harray := isByteArray_of_admitsRead hadmits hregister hcolour
  have hnext := locate_isByteArray_add harray haligned hj
  have hend := (locate_isByteArray_iff ..).1 hnext
  have hM := s.cfg.maxLeds_le
  have hoff : (off + BitVec.ofNat 16 j).toNat = off.toNat + j := by
    rw [BitVec.toNat_add, BitVec.toNat_ofNat]
    omega
  rw [← hoff] at hnext
  refine ⟨readAdmitted_iff.2 ⟨Nat.mod_one _, Place.admitsRead_of_isByteArray hnext .b1⟩, ?_⟩
  rw [State.readValue_byteArray hnext, State.readValue_byteArray harray, State.readBytes_byte s _ n (by omega), if_pos hj, hoff]
  exact State.readBytes_byte s _ .b1 (j := 0) (by decide)

/-- Settles O50: an access is off the list before it has its effect, and no effect touches the list or the parameters. -/
theorem accessesAreTakenInOrder : Obligations.AccessesAreTakenInOrder := by
  intro s t hstep
  rcases step_cases hstep with ⟨hp, rfl⟩ | ⟨rest, off, w, r, hp, rfl⟩ | ⟨rest, hp, rfl⟩ | ⟨rest, off, w, v, hp, hw⟩ <;> rw [hp]
  · exact ⟨rfl, rfl⟩
  · exact ⟨rfl, rfl⟩
  · exact ⟨rfl, rfl⟩
  · exact hostWrite_keeps_pending_cfg hw

/-- Settles O59: in a byte array by the bytes of the value, elsewhere because the access has all 32 bits. -/
theorem narrowReadsAreRecordedZeroExtended : Obligations.NarrowReadsAreRecordedZeroExtended := by
  intro s rest off n h hadm
  refine ⟨_, step_readAdmitted h hadm, fun j hj => ?_⟩
  rcases Nat.lt_or_ge j 4 with hlt | hge
  · have harray : (locate s.cfg off.toNat).isByteArray = true := by
      by_contra hno
      have hwide := Place.wide_of_admitsRead (readAdmitted_iff.1 hadm).2 (Bool.eq_false_of_not_eq_true hno)
      rw [hwide] at hj
      exact Nat.not_le_of_lt hlt hj
    rw [State.readValue_byteArray harray, State.readBytes_byte s _ n hlt, if_neg (Nat.not_lt_of_le hj)]
  · exact extractLsb'_past_width hge

end Sys2Proof.Machine
end

section
/-! SUPPORT. The decoder of 30_encoding.md R42 to R47: which words it accepts, field by field, and that it is the inverse of the encoder. -/

namespace Sys2Proof

/-! ## The words of a command -/

theorem fieldsOf_injective : Function.Injective fieldsOf := Function.LeftInverse.injective wordOf_fieldsOf

/-- A word is that of a command if its reserved fields are 0 and its other fields are the command's (R42, R46). -/
theorem encode_eq_iff {i : Instr} {w : Word} :
    encode i = w ↔ ((fieldsOf w).rsv0 = 0 ∧ (fieldsOf w).rsv1 = 0 ∧ (fieldsOf w).rsv2 = 0) ∧ (fieldsOf w).opc = i.opcode ∧
      (fieldsOf w).tgt = i.tgt ∧ (fieldsOf w).size = i.sizeField ∧ (fieldsOf w).imm8 = i.imm8 := by
  constructor
  · rintro rfl
    rw [fieldsOf_encode]
    exact ⟨⟨rfl, rfl, rfl⟩, rfl, rfl, rfl, rfl⟩
  · rintro ⟨⟨hrsv0, hrsv1, hrsv2⟩, hopc, htgt, hsize, himm⟩
    rw [← wordOf_fieldsOf w]
    unfold encode
    rw [← hrsv0, ← hrsv1, ← hrsv2, ← hopc, ← htgt, ← hsize, ← himm]

/-! ## The operand forms of R46 -/

theorem decodeBare_eq_ok {f : Fields} {i j : Instr} :
    decodeBare f i = .ok j ↔ (f.tgt = 0 ∧ f.size = 0 ∧ f.imm8 = 0) ∧ i = j := by
  unfold decodeBare
  split_ifs with htgt hsize himm <;> simp_all

theorem decodeDraw_eq_ok {f : Fields} {i : Target → Instr} {j : Instr} :
    decodeDraw f i = .ok j ↔ ∃ t : Target, (f.tgt = t.code ∧ f.size = 0 ∧ f.imm8 = 0) ∧ i t = j := by
  unfold decodeDraw
  simp only [← targetOf_eq_some]
  cases targetOf f.tgt with
  | none => simp
  | some t => split_ifs with hsize himm <;> simp_all

theorem decodeGlyph_eq_ok {f : Fields} {j : Instr} :
    decodeGlyph f = .ok j ↔ ∃ t : Target, f.tgt = t.code ∧ .glyph t f.size.toNat f.imm8.toNat = j := by
  unfold decodeGlyph
  simp only [← targetOf_eq_some]
  cases targetOf f.tgt <;> simp

theorem decodeMaskchar_eq_ok {f : Fields} {j : Instr} :
    decodeMaskchar f = .ok j ↔ (f.tgt = 0 ∧ f.size = 0) ∧ .maskchar f.imm8.toNat = j := by
  unfold decodeMaskchar
  split_ifs with htgt hsize <;> simp_all

/-! ## The decoder -/

/-- The opcode map accepts exactly the fields of well-formed commands (R45, R46). -/
theorem decodeOpcode_eq_ok {f : Fields} {i : Instr} :
    decodeOpcode f = .ok i ↔
      i.wellFormed = true ∧ f.opc = i.opcode ∧ f.tgt = i.tgt ∧ f.size = i.sizeField ∧ f.imm8 = i.imm8 := by
  constructor
  · intro h
    unfold decodeOpcode at h
    split at h
    case h_2 hopc | h_3 hopc | h_4 hopc =>
      obtain ⟨t, hfields, rfl⟩ := decodeDraw_eq_ok.1 h
      exact ⟨rfl, BitVec.eq_of_toNat_eq hopc, hfields⟩
    case h_5 hopc =>
      obtain ⟨t, htgt, rfl⟩ := decodeGlyph_eq_ok.1 h
      refine ⟨?_, BitVec.eq_of_toNat_eq hopc, htgt, by simp [Instr.sizeField], by simp [Instr.imm8]⟩
      simpa [Instr.wellFormed] using ⟨f.size.isLt, f.imm8.isLt⟩
    case h_8 hopc =>
      obtain ⟨⟨htgt, hsize⟩, rfl⟩ := decodeMaskchar_eq_ok.1 h
      exact ⟨decide_eq_true f.imm8.isLt, BitVec.eq_of_toNat_eq hopc, htgt, hsize, by simp [Instr.imm8]⟩
    case h_11 => cases h
    all_goals
      rename_i hopc
      obtain ⟨hfields, rfl⟩ := decodeBare_eq_ok.1 h
      exact ⟨rfl, BitVec.eq_of_toNat_eq hopc, hfields⟩
  · rintro ⟨hwf, hopc, hfields⟩
    unfold decodeOpcode
    rw [hopc]
    cases i with
    | fill t | erase t | copy t => exact decodeDraw_eq_ok.2 ⟨t, hfields, rfl⟩
    | glyph t size c =>
      obtain ⟨htgt, hsize, himm⟩ := hfields
      simp only [Instr.wellFormed, Bool.and_eq_true, decide_eq_true_eq] at hwf
      refine decodeGlyph_eq_ok.2 ⟨t, htgt, ?_⟩
      simp [hsize, himm, Instr.sizeField, Instr.imm8, Nat.mod_eq_of_lt hwf.1, Nat.mod_eq_of_lt hwf.2]
    | maskchar ch =>
      obtain ⟨htgt, hsize, himm⟩ := hfields
      refine decodeMaskchar_eq_ok.2 ⟨⟨htgt, hsize⟩, ?_⟩
      simp [himm, Instr.imm8, Nat.mod_eq_of_lt (of_decide_eq_true hwf)]
    | _ => exact decodeBare_eq_ok.2 ⟨hfields, rfl⟩

theorem decode_reservedOpcode {w : Word} (h : 9 < (fieldsOf w).opc.toNat) : decode w = .error .reservedOpcode := if_pos h

/-- Decoding is the opcode map on words whose reserved fields are 0: a reserved opcode fails there too (R46, R47). -/
theorem decode_eq_ok_iff_decodeOpcode {w : Word} {i : Instr} :
    decode w = .ok i ↔
      ((fieldsOf w).rsv0 = 0 ∧ (fieldsOf w).rsv1 = 0 ∧ (fieldsOf w).rsv2 = 0) ∧ decodeOpcode (fieldsOf w) = .ok i := by
  by_cases hreserved : 9 < (fieldsOf w).opc.toNat
  · have hno : decodeOpcode (fieldsOf w) ≠ .ok i := fun h => by
      obtain ⟨-, hopc, -⟩ := decodeOpcode_eq_ok.1 h
      have hle := i.opcode_le
      rw [← hopc] at hle
      omega
    simp [decode_reservedOpcode hreserved, hno]
  · unfold decode
    simp only [if_neg hreserved]
    split_ifs with hrsv
    · simp only [false_iff]
      tauto
    · simp_all

/-- Decoding field by field: the reserved fields are 0 and the others are those of a well-formed command (R46). -/
theorem decode_eq_ok_iff_fields {w : Word} {i : Instr} :
    decode w = .ok i ↔ i.wellFormed = true ∧
      ((fieldsOf w).rsv0 = 0 ∧ (fieldsOf w).rsv1 = 0 ∧ (fieldsOf w).rsv2 = 0) ∧ (fieldsOf w).opc = i.opcode ∧
      (fieldsOf w).tgt = i.tgt ∧ (fieldsOf w).size = i.sizeField ∧ (fieldsOf w).imm8 = i.imm8 := by
  rw [decode_eq_ok_iff_decodeOpcode, decodeOpcode_eq_ok]
  exact and_left_comm

/-- The decoder accepts exactly the words of well-formed commands. -/
theorem decode_eq_ok_iff {w : Word} {i : Instr} : decode w = .ok i ↔ i.wellFormed = true ∧ encode i = w := by
  rw [decode_eq_ok_iff_fields, encode_eq_iff]

theorem decode_encode {i : Instr} (h : i.wellFormed = true) : decode (encode i) = .ok i := decode_eq_ok_iff.2 ⟨h, rfl⟩

/-- Settles O1: an encoded well-formed command is a word the decoder accepts, as that command. -/
theorem decodeOfEncodeGivesTheCommand : Obligations.DecodeOfEncodeGivesTheCommand := fun _ => decode_encode

/-- Settles O2: the decoder accepts the words of well-formed commands only. -/
theorem legalWordIsTheWordOfItsCommand : Obligations.LegalWordIsTheWordOfItsCommand := fun _ _ => decode_eq_ok_iff.1

end Sys2Proof
end

section
/-! SUPPORT. The legal words of 30_encoding.md R46, in its table of fields and in its table of match and mask pairs, and what becomes of every other
word (R47). -/

namespace Sys2Proof

/-! ## The table of fields -/

/-- The target field of a drawing command is the number of a target (R43). -/
theorem exists_target_code {b : BitVec 2} (h : b ≠ 3) : ∃ t : Target, b = t.code := by
  obtain ⟨t, ht⟩ := Option.ne_none_iff_exists'.1 (mt targetOf_eq_none.1 h)
  exact ⟨t, targetOf_eq_some.1 ht⟩

theorem legalByFields_of_decode {w : Word} {i : Instr} (h : decode w = .ok i) : legalByFields w := by
  obtain ⟨-, ⟨hrsv0, hrsv1, hrsv2⟩, hopc, htgt, hsize, himm⟩ := decode_eq_ok_iff_fields.1 h
  refine ⟨hrsv0, hrsv1, hrsv2, ?_⟩
  rw [hopc, htgt, hsize, himm]
  cases i with
  | fill t | erase t | copy t => exact .inr (.inl ⟨by simp [Instr.opcode], Laws.target_code_ne_three t, rfl, rfl⟩)
  | glyph t size c => exact .inr (.inr (.inl ⟨rfl, Laws.target_code_ne_three t⟩))
  | maskchar ch => exact .inr (.inr (.inr ⟨rfl, rfl, rfl⟩))
  | _ => exact .inl ⟨by simp [Instr.opcode], rfl, rfl, rfl⟩

theorem exists_decode_of_legalByFields {w : Word} (h : legalByFields w) : ∃ i, decode w = .ok i := by
  obtain ⟨hrsv0, hrsv1, hrsv2, hform⟩ := h
  have hword : ∀ i : Instr, i.wellFormed = true → (fieldsOf w).opc = i.opcode → (fieldsOf w).tgt = i.tgt →
      (fieldsOf w).size = i.sizeField → (fieldsOf w).imm8 = i.imm8 → ∃ i, decode w = .ok i := fun i hwf hopc htgt hsize himm =>
    ⟨i, decode_eq_ok_iff_fields.2 ⟨hwf, ⟨hrsv0, hrsv1, hrsv2⟩, hopc, htgt, hsize, himm⟩⟩
  have hsizeFits := (fieldsOf w).size.isLt
  have himmFits := (fieldsOf w).imm8.isLt
  simp only [List.mem_cons, List.not_mem_nil, or_false] at hform
  obtain ⟨hopc, htgt, hsize, himm⟩ | ⟨hopc, htgt, hsize, himm⟩ | ⟨hopc, htgt⟩ | ⟨hopc, htgt, hsize⟩ := hform
  · obtain h | h | h | h | h := hopc
    exacts [hword .nop rfl h htgt hsize himm, hword .composite rfl h htgt hsize himm, hword .maskinit rfl h htgt hsize himm,
      hword .color12 rfl h htgt hsize himm, hword .encode rfl h htgt hsize himm]
  · obtain ⟨t, ht⟩ := exists_target_code htgt
    obtain h | h | h := hopc
    exacts [hword (.fill t) rfl h ht hsize himm, hword (.erase t) rfl h ht hsize himm, hword (.copy t) rfl h ht hsize himm]
  · obtain ⟨t, ht⟩ := exists_target_code htgt
    exact hword (.glyph t (fieldsOf w).size.toNat (fieldsOf w).imm8.toNat) (by simp [Instr.wellFormed, hsizeFits, himmFits]) hopc ht
      (by simp [Instr.sizeField]) (by simp [Instr.imm8])
  · exact hword (.maskchar (fieldsOf w).imm8.toNat) (decide_eq_true himmFits) hopc htgt hsize (by simp [Instr.imm8])

/-- The decoder accepts exactly the words of the table of fields. -/
theorem exists_decode_iff_legalByFields {w : Word} : (∃ i, decode w = .ok i) ↔ legalByFields w :=
  ⟨fun ⟨_, h⟩ => legalByFields_of_decode h, exists_decode_of_legalByFields⟩

/-! ## The table of match and mask pairs -/

/-- Masking fields one by one. -/
def Fields.and (f g : Fields) : Fields where
  rsv2 := f.rsv2 &&& g.rsv2
  imm8 := f.imm8 &&& g.imm8
  rsv1 := f.rsv1 &&& g.rsv1
  size := f.size &&& g.size
  rsv0 := f.rsv0 &&& g.rsv0
  tgt := f.tgt &&& g.tgt
  opc := f.opc &&& g.opc

/-- Masking a word masks each of its fields. -/
theorem fieldsOf_and (v w : Word) : fieldsOf (v &&& w) = (fieldsOf v).and (fieldsOf w) := by
  simp only [fieldsOf, Fields.and, BitVec.extractLsb'_and]

theorem and_wordOf_eq_iff {w : Word} {mask want : Fields} : w &&& wordOf mask = wordOf want ↔ (fieldsOf w).and mask = want := by
  rw [← fieldsOf_injective.eq_iff, fieldsOf_and, fieldsOf_wordOf, fieldsOf_wordOf]

/-- A row of the table of R46: the opcode and zeros are asked for, in the reserved fields and under the masks of TGT, SIZE and IMM8. -/
def maskRow (opc : BitVec 8) (tgt : BitVec 2) (size : BitVec 3) (imm8 : BitVec 8) (drawing : Bool) : Word × Word × Bool :=
  (wordOf { rsv2 := 0, imm8 := 0, rsv1 := 0, size := 0, rsv0 := 0, tgt := 0, opc := opc },
    wordOf { rsv2 := .allOnes 8, imm8 := imm8, rsv1 := .allOnes 1, size := size, rsv0 := .allOnes 2, tgt := tgt, opc := .allOnes 8 },
    drawing)

/-- The ten rows by operand form: a field is masked wholly where the form has no operand there, and not at all where it has one. -/
theorem matchRows_perm :
    matchRows.Perm
      ([0x00, 0x05, 0x06, 0x08, 0x09].map (maskRow · (.allOnes 2) (.allOnes 3) (.allOnes 8) false) ++
        [0x01, 0x02, 0x03].map (maskRow · 0 (.allOnes 3) (.allOnes 8) true) ++
        [0x04].map (maskRow · 0 0 0 true) ++ [0x07].map (maskRow · (.allOnes 2) (.allOnes 3) 0 false)) := by
  decide

/-- What the rows of one operand form ask of a word: one of their opcodes, and zeros in the reserved fields and under the masks of TGT, SIZE
and IMM8. -/
theorem exists_maskRow_iff {w : Word} {opcs : List (BitVec 8)} {tgt : BitVec 2} {size : BitVec 3} {imm8 : BitVec 8} {drawing : Bool} :
    (∃ row ∈ opcs.map (maskRow · tgt size imm8 drawing), w &&& row.2.1 = row.1 ∧ (row.2.2 = true → w.extractLsb' 8 2 ≠ 3)) ↔
      ((fieldsOf w).rsv0 = 0 ∧ (fieldsOf w).rsv1 = 0 ∧ (fieldsOf w).rsv2 = 0) ∧ (fieldsOf w).opc ∈ opcs ∧
      (drawing = true → (fieldsOf w).tgt ≠ 3) ∧
      (fieldsOf w).tgt &&& tgt = 0 ∧ (fieldsOf w).size &&& size = 0 ∧ (fieldsOf w).imm8 &&& imm8 = 0 := by
  simp only [List.mem_map, exists_exists_and_eq_and, maskRow, and_wordOf_eq_iff, Fields.and, Fields.mk.injEq, BitVec.and_allOnes]
  constructor
  · rintro ⟨opc, hopc, ⟨hrsv2, himm, hrsv1, hsize, hrsv0, htgt, rfl⟩, hdrawing⟩
    exact ⟨⟨hrsv0, hrsv1, hrsv2⟩, hopc, hdrawing, htgt, hsize, himm⟩
  · rintro ⟨⟨hrsv0, hrsv1, hrsv2⟩, hopc, hdrawing, htgt, hsize, himm⟩
    exact ⟨_, hopc, ⟨hrsv2, himm, hrsv1, hsize, hrsv0, htgt, rfl⟩, hdrawing⟩

/-- The two tables of R46 say the same. -/
theorem legalByFields_iff_legalByTable (w : Word) : legalByFields w ↔ legalByTable w := by
  unfold legalByTable legalByFields
  simp only [matchRows_perm.mem_iff, List.mem_append, or_and_right, exists_or, exists_maskRow_iff, List.mem_singleton]
  simp only [BitVec.and_allOnes, BitVec.and_zero, BitVec.ofNat_eq_ofNat, true_and, and_true, forall_const, Bool.false_eq_true,
    false_implies, ← and_or_left, or_assoc, and_assoc]

/-! ## Illegal words -/

/-- A word that does not decode ends with ERR_ILLEGAL (R46, 40_command_cycle.md R51). -/
theorem Machine.commandCycle_of_error {w : Word} {e : DecodeError} (h : decode w = .error e) (s : Machine.State) :
    Machine.commandCycle w s = .next { s with cmd := w, result := .errIllegal, err := true } := by
  unfold Machine.commandCycle
  rw [h, Machine.State.finish_errIllegal]
  rfl

theorem Machine.commandCycle_of_ok {w : Word} {i : Instr} (h : decode w = .ok i) (s : Machine.State) :
    Machine.commandCycle w s = Machine.exec i (s.setCmd w) := by
  unfold Machine.commandCycle
  rw [h]

/-- Settles O3: the decoder against the table of fields, the two tables, and the one answer to every other word. -/
theorem legalWordsAreThoseOfTheTables : Obligations.LegalWordsAreThoseOfTheTables := by
  intro w
  refine ⟨exists_decode_iff_legalByFields, legalByFields_iff_legalByTable w, fun hillegal s => ?_⟩
  cases hd : decode w with
  | ok i => exact absurd (legalByFields_of_decode hd) hillegal
  | error e => exact Machine.commandCycle_of_error hd s

/-- NOP is the word 0 and no other (R47). -/
theorem decode_eq_nop_iff {w : Word} : decode w = .ok .nop ↔ w = 0 := by
  have hword : encode .nop = 0 := by decide
  rw [decode_eq_ok_iff, hword]
  exact ⟨fun h => h.2.symm, fun h => ⟨rfl, h.symm⟩⟩

/-- Settles O6: every command answers a next state, and the write of any other word has the one effect of an illegal word. -/
theorem everyWordPerformsOrIsIllegal : Obligations.EveryWordPerformsOrIsIllegal := by
  intro w s rest hp
  refine ⟨?_, fun hopc => ⟨_, decode_reservedOpcode hopc⟩, decode_eq_nop_iff⟩
  rw [Machine.step_commandWrite hp]
  cases hd : decode w with
  | ok i =>
    obtain ⟨m, row, col, len, code, hexec⟩ := Machine.exec_shape i (s.afterCommandWrite rest w)
    exact .inl ⟨i, _, rfl, hexec, (Machine.commandCycle_of_ok hd _).trans hexec⟩
  | error e => exact .inr ⟨⟨e, rfl⟩, Machine.commandCycle_of_error hd _⟩

end Sys2Proof
end

section
/-! SUPPORT. How the operand registers are read (30_encoding.md R44), and the command lines of R49: they load the operands, then run the command. -/

namespace Sys2Proof.Machine

/-! ## Readings of the operand registers -/

theorem State.signedArg_eq_ite (s : State) (n : Fin 6) :
    s.signedArg n = if s.args[n].toNat < 32768 then (s.args[n].toNat : Int) else s.args[n].toNat - 65536 := by
  unfold State.signedArg
  rw [BitVec.toInt_eq_toNat_cond]
  split_ifs <;> omega

theorem State.rgb12_toNat (s : State) : s.rgb12.toNat = s.args[1].toNat % 4096 := by
  unfold State.rgb12
  rw [BitVec.extractLsb'_toNat, Nat.shiftRight_zero]

/-- Settles O11: the plain reading, the two's-complement reading and the low 12 bits. -/
theorem operandsAreReadAsTheTableSays : Obligations.OperandsAreReadAsTheTableSays := fun s n =>
  ⟨rfl, s.signedArg_eq_ite n, s.rgb12_toNat⟩

/-! ## The operand registers while a line loads them -/

theorem argsWith_nil (args : Vector Half 6) : argsWith [] args = args := by
  ext n hn
  simp [argsWith]

/-- Writing one operand more, to the register after those written. -/
theorem argsWith_set (vs : List Int) (v : Int) (args : Vector Half 6) (h : vs.length < 6) :
    (argsWith vs args).set vs.length (BitVec.ofInt 16 v) = argsWith (vs ++ [v]) args := by
  ext n hn
  rcases Nat.lt_trichotomy n vs.length with hlt | rfl | hgt
  · simp [argsWith, hlt, List.getElem?_append_left, Nat.ne_of_gt hlt]
  · simp [argsWith]
  · have hpast : vs.length + 1 ≤ n := hgt
    simp [argsWith, Nat.ne_of_lt hgt, List.getElem?_eq_none, hpast, Nat.le_of_lt hgt]

/-! ## The accesses of a line -/

theorem argPattern_of_range {v : Int} (h : -32768 ≤ v ∧ v ≤ 65535) : argPattern v = some (BitVec.ofInt 16 v) := if_pos h

theorem argWrites_cons {v : Int} (h : -32768 ≤ v ∧ v ≤ 65535) (n : Nat) (vs : List Int) :
    argWrites n (v :: vs) =
      (argWrites (n + 1) vs).map (.write (argOffset n) .b4 ((BitVec.ofInt 16 v).setWidth 32) :: ·) := by
  rw [argWrites, argPattern_of_range h]
  cases argWrites (n + 1) vs <;> rfl

/-- One operand outside the range makes the assembler refuse the line (R49). -/
theorem argWrites_eq_none {vs : List Int} (h : ∃ v ∈ vs, v < -32768 ∨ 65535 < v) (n : Nat) : argWrites n vs = none := by
  induction vs generalizing n with
  | nil =>
    obtain ⟨v, hv, -⟩ := h
    cases hv
  | cons v vs ih =>
    by_cases hv : -32768 ≤ v ∧ v ≤ 65535
    · rw [argWrites_cons hv, ih, Option.map_none]
      obtain ⟨u, hu, hrange⟩ := h
      rcases List.mem_cons.1 hu with rfl | hu
      · omega
      · exact ⟨u, hu, hrange⟩
    · rw [argWrites, argPattern, if_neg hv]

/-- The writes of the operands `vs` after those of `done`, with a command write behind them: one access an operand, and made in order they load
the registers, so that the command cycle finds them all loaded. -/
theorem argWrites_run {vs : List Int} (hrange : ∀ v ∈ vs, -32768 ≤ v ∧ v ≤ 65535) (done : List Int)
    (hlen : done.length + vs.length ≤ 6) :
    ∃ ops, argWrites done.length vs = some ops ∧ ops.length = vs.length ∧
      ∀ (w : Word) (args : Vector Half 6) (s : State) (rest : List HostOp), s.pending = ops ++ commandWrite w :: rest → s.args = argsWith done args →
        Host.Core.run core (vs.length + 1) s =
          commandCycle w { s.answered rest .written with args := argsWith (done ++ vs) args } := by
  induction vs generalizing done with
  | nil =>
    refine ⟨[], rfl, rfl, fun w args s rest hp hargs => ?_⟩
    rw [List.append_nil, ← hargs]
    exact (core_run_one s).trans (step_commandWrite hp)
  | cons v vs ih =>
    rw [List.length_cons] at hlen
    obtain ⟨ops, hops, hopsLen, hrun⟩ := ih (fun u hu => hrange u (List.mem_cons_of_mem v hu)) (done ++ [v])
      (by rw [List.length_append, List.length_singleton]; omega)
    rw [List.length_append, List.length_singleton] at hops
    refine ⟨.write (argOffset done.length) .b4 ((BitVec.ofInt 16 v).setWidth 32) :: ops, ?_, ?_, fun w args s rest hp hargs => ?_⟩
    · rw [argWrites_cons (hrange v List.mem_cons_self), hops, Option.map_some]
    · rw [List.length_cons, List.length_cons, hopsLen]
    · have hdone : done.length < 6 := by omega
      have hvalue : ((BitVec.ofInt 16 v).setWidth 32).extractLsb' 0 16 = BitVec.ofInt 16 v :=
        (BitVec.extractLsb'_setWidth_of_le (by decide)).trans BitVec.extractLsb'_eq_self
      have hstep := step_writeArg (n := ⟨done.length, hdone⟩) hp
      rw [hvalue] at hstep
      rw [List.length_cons, core_run_next _ hstep, hrun w args _ rest rfl ?_, List.append_assoc]
      · rfl
      · rw [State.setArg_args, ← argsWith_set _ _ _ hdone, ← hargs]
        rfl

theorem commandLine_eq_none {vs : List Int} (h : ∃ v ∈ vs, v < -32768 ∨ 65535 < v) (i : Instr) : commandLine i vs = none := by
  rw [commandLine, argWrites_eq_none h]

/-- A line of a well-formed command with operands in range: one access an operand and one more, which load the operands and run the command. -/
theorem commandLine_run {i : Instr} {vs : List Int} (hwf : i.wellFormed = true) (hrange : ∀ v ∈ vs, -32768 ≤ v ∧ v ≤ 65535)
    (hlen : vs.length ≤ 6) :
    ∃ ops, commandLine i vs = some ops ∧ ops.length = vs.length + 1 ∧
      ∀ (s : State) (rest : List HostOp), s.pending = ops ++ rest →
        Host.Core.run core (vs.length + 1) s =
          exec i { s.afterCommandWrite rest (encode i) with args := argsWith vs s.args } := by
  obtain ⟨ops, hops, hopsLen, hrun⟩ := argWrites_run hrange [] (by rwa [List.length_nil, Nat.zero_add])
  rw [List.length_nil] at hops
  refine ⟨ops ++ [commandWrite (encode i)], ?_, ?_, fun s rest hp => ?_⟩
  · rw [commandLine, hops, hwf]
    rfl
  · rw [List.length_append, hopsLen, List.length_singleton]
  · rw [List.append_assoc, List.singleton_append] at hp
    rw [hrun _ s.args s rest hp (argsWith_nil _).symm, commandCycle_of_ok (decode_encode hwf)]
    rfl

/-! ## The table of R49 -/

theorem AsmLine.expand_eq_row (line : AsmLine) : line.expand = commandLine line.row.1 line.row.2.2 := by cases line <;> rfl

theorem AsmLine.row_operands_le (line : AsmLine) : line.row.2.2.length ≤ 6 := by cases line <;> simp [AsmLine.row]

/-- The word of a command as a number, from the positions of its fields (R42). -/
theorem encode_toNat (i : Instr) :
    (encode i).toNat = i.opcode.toNat + 256 * i.tgt.toNat + 4096 * i.sizeField.toNat + 65536 * i.imm8.toNat := by
  unfold encode wordOf
  simp only [toNat_append_eq_add, BitVec.ofNat_eq_ofNat, BitVec.toNat_ofNat, Nat.zero_mod]
  omega

theorem target_code_toNat (t : Target) : t.code.toNat = t.number := by cases t <;> rfl

/-- The word that the table gives for a mnemonic is that of its command. -/
theorem AsmLine.row_word (line : AsmLine) (h : line.row.1.wellFormed = true) : line.row.2.1 = (Sys2Proof.encode line.row.1).toNat := by
  rw [encode_toNat]
  cases line with
  | fill t | erase t | copy t => simp [AsmLine.row, Instr.opcode, Instr.tgt, Instr.sizeField, Instr.imm8, target_code_toNat]
  | glyph t x y c size =>
    simp only [AsmLine.row, Instr.wellFormed, Bool.and_eq_true, decide_eq_true_eq] at h
    simp [AsmLine.row, Instr.opcode, Instr.tgt, Instr.sizeField, Instr.imm8, target_code_toNat, Nat.mod_eq_of_lt h.1,
      Nat.mod_eq_of_lt h.2]
  | maskchar c =>
    simp [AsmLine.row, Instr.opcode, Instr.tgt, Instr.sizeField, Instr.imm8, Nat.mod_eq_of_lt (of_decide_eq_true h)]
  | _ => rfl

/-- Settles O57: the row of the table says which command and which operands a line has; the accesses are those of every command line. -/
theorem commandLineWritesOperandsThenRuns : Obligations.CommandLineWritesOperandsThenRuns := by
  intro line i w vs hrow
  have hexpand := line.expand_eq_row
  have hlen := line.row_operands_le
  have hword := line.row_word
  rw [hrow] at hexpand hlen hword
  dsimp only at hexpand hlen hword
  rw [hexpand]
  refine ⟨fun hrange hwf => ?_, fun hout => commandLine_eq_none hout i⟩
  rw [hword hwf, BitVec.ofNat_toNat, BitVec.setWidth_eq]
  exact commandLine_run hwf hrange hlen


end Sys2Proof.Machine
end

section
/-! SUPPORT. What FILL and ERASE do to each pixel (41_blit.md R61 to R64), and the lines that set and clear one pixel (30_encoding.md R50). -/

namespace Sys2Proof.Machine

/-! ## The masks of R61 -/

theorem stripeMask_getLsbD {lo hi b : Nat} (hhi : hi ≤ 7) (hb : b < 8) :
    (stripeMask lo hi).getLsbD b = decide (lo ≤ b ∧ b ≤ hi) := by
  have hones : (0xFF#8) = BitVec.allOnes 8 := rfl
  unfold stripeMask
  rw [hones, BitVec.getLsbD_and, BitVec.getLsbD_shiftLeft, BitVec.getLsbD_ushiftRight, BitVec.getLsbD_allOnes, BitVec.getLsbD_allOnes,
    Bool.eq_iff_iff]
  simp only [Bool.and_eq_true, Bool.not_eq_true', decide_eq_true_eq, decide_eq_false_iff_not]
  omega

/-- In a stripe that rows y0 to y1 touch, the row mask has the bits of exactly those rows. -/
theorem rowMask_getLsbD {st y0 y1 b : Nat} (h₀ : y0 / 8 ≤ st) (h₁ : st ≤ y1 / 8) (hb : b < 8) :
    (rowMask st y0 y1).getLsbD b = decide (y0 ≤ 8 * st + b ∧ 8 * st + b ≤ y1) := by
  unfold rowMask
  rw [stripeMask_getLsbD (by split_ifs <;> omega) hb, decide_eq_decide]
  split_ifs <;> omega

/-! ## FILL and ERASE, pixel by pixel -/

/-- An operation that makes every masked bit of a byte `on` makes every pixel of the rectangle `on`, and keeps every other pixel (R64). -/
theorem State.pixel_drawRect {t : Target} {op : Byte → Byte → Byte} {on : Bool} {s : State} {r : Rect} (hr : s.rectArgs = some r)
    (hop : ∀ old m : Byte, ∀ b, b < 8 → (op old m).getLsbD b = if m.getLsbD b then on else old.getLsbD b) (p : Plane) {x y : Nat}
    (hx : x < 128) (hy : y < 64) :
    (s.drawRect t op).pixel p x y =
      if p = targetPlane t ∧ (r.x0 ≤ x ∧ x ≤ r.x1) ∧ r.y0 ≤ y ∧ y ≤ r.y1 then on else s.pixel p x y := by
  obtain ⟨-, hx1, -, hy1⟩ := State.rectArgs_bounds hr
  have hbit : y % 8 < 8 := Nat.mod_lt y (by decide)
  rw [State.drawRect_some hr, State.finish_pixel]
  unfold State.pixel
  rw [State.planeByte_storeRect s _ p (by omega) hx1 _ (by omega) (by omega)]
  by_cases hin : p = targetPlane t ∧ (r.y0 / 8 ≤ y / 8 ∧ y / 8 ≤ r.y1 / 8) ∧ r.x0 ≤ x ∧ x ≤ r.x1
  · obtain ⟨rfl, ⟨hlo, hhi⟩, hcol⟩ := hin
    rw [if_pos ⟨rfl, ⟨hlo, hhi⟩, hcol⟩, hop _ _ _ hbit, rowMask_getLsbD hlo hhi hbit, Nat.div_add_mod]
    simp only [decide_eq_true_eq, hcol, true_and, and_self]
  · rw [if_neg hin, if_neg]
    rintro ⟨hp, hcol, hrow⟩
    exact hin ⟨hp, by omega, hcol⟩

theorem getLsbD_fill (old m : Byte) (b : Nat) : (old ||| m).getLsbD b = if m.getLsbD b then true else old.getLsbD b := by
  rw [BitVec.getLsbD_or]
  cases m.getLsbD b <;> simp

theorem getLsbD_erase (old m : Byte) {b : Nat} (hb : b < 8) :
    (old &&& ~~~m).getLsbD b = if m.getLsbD b then false else old.getLsbD b := by
  rw [BitVec.getLsbD_and, BitVec.getLsbD_not]
  cases m.getLsbD b <;> simp [hb]

/-! ## One pixel -/

/-- An operand that a line has loaded is read back as the number it was, if that is in the grid's range. -/
theorem State.signedArg_of_args {s : State} {vs : List Int} {args : Vector Half 6} (hs : s.args = argsWith vs args) {n : Fin 6} {v : Nat}
    (hv : vs[n.val]? = some (v : Int)) (hlt : v < 32768) : s.signedArg n = v := by
  have harg : s.args[n] = BitVec.ofInt 16 v := by simp [hs, argsWith, hv]
  exact (congrArg BitVec.toInt harg).trans (BitVec.toInt_ofInt_eq_self (by decide) (by omega) (by omega))

/-- A rectangle whose corners are one pixel of the grid is that pixel (R60). -/
theorem rectClip_pixel {px py : Nat} (hpx : px < 128) (hpy : py < 64) :
    rectClip px py px py = some { x0 := px, y0 := py, x1 := px, y1 := py } := by
  simp only [rectClip, min_self, max_self]
  rw [if_neg (by omega)]
  simp only [Option.some.injEq, Rect.mk.injEq]
  omega

theorem State.rectArgs_pixel {s : State} {px py : Nat} {args : Vector Half 6} (hs : s.args = argsWith [(px : Int), py, px, py] args)
    (hpx : px < 128) (hpy : py < 64) : s.rectArgs = some { x0 := px, y0 := py, x1 := px, y1 := py } := by
  have hx : px < 32768 := by omega
  have hy : py < 32768 := by omega
  unfold State.rectArgs
  rw [State.signedArg_of_args hs (n := 0) rfl hx, State.signedArg_of_args hs (n := 1) rfl hy, State.signedArg_of_args hs (n := 2) rfl hx,
    State.signedArg_of_args hs (n := 3) rfl hy, rectClip_pixel hpx hpy]

/-- The line of a command that draws the rectangle of ARG0 to ARG3 makes one pixel `on` if both its corners are that pixel. -/
theorem pixelLine_run {i : Instr} {t : Target} {op : Byte → Byte → Byte} {on : Bool} (hwf : i.wellFormed = true)
    (hexec : ∀ s, exec i s = .next (s.drawRect t op))
    (hop : ∀ old m : Byte, ∀ b, b < 8 → (op old m).getLsbD b = if m.getLsbD b then on else old.getLsbD b) {px py : Nat}
    (hpx : px < 128) (hpy : py < 64) :
    ∃ ops, commandLine i [(px : Int), py, px, py] = some ops ∧ ops.length = 5 ∧
      ∀ (s : State) (rest : List HostOp), s.pending = ops ++ rest → ∃ u, Host.Core.run core 5 s = .next u ∧ u.result = .ok ∧
        ∀ (p : Plane) (x y : Nat), x < 128 → y < 64 →
          u.pixel p x y = if p = targetPlane t ∧ x = px ∧ y = py then on else s.pixel p x y := by
  have hrange : ∀ v ∈ [(px : Int), py, px, py], -32768 ≤ v ∧ v ≤ 65535 := by
    simp only [List.forall_mem_cons, List.not_mem_nil, false_implies, implies_true, and_true]
    omega
  obtain ⟨ops, hops, hlen, hrun⟩ := commandLine_run hwf hrange (by simp)
  refine ⟨ops, hops, hlen, fun s rest hp => ⟨_, (hrun s rest hp).trans (hexec _), ?_, fun p x y hx hy => ?_⟩⟩
  · rw [State.drawRect_some (State.rectArgs_pixel rfl hpx hpy), State.finish_result]
  · have hcorner : (px ≤ x ∧ x ≤ px) ∧ py ≤ y ∧ y ≤ py ↔ x = px ∧ y = py := by omega
    exact (State.pixel_drawRect (State.rectArgs_pixel rfl hpx hpy) hop p hx hy).trans
      (if_congr (and_congr_right fun _ => hcorner) rfl rfl)

/-- Settles O58: `pixel` is a FILL line and `unpixel` an ERASE line whose corners are both the pixel. -/
theorem pixelPseudoSetsOnePixel : Obligations.PixelPseudoSetsOnePixel := by
  intro c t px py hpx hpy on
  cases on with
  | true => exact pixelLine_run (i := .fill t) rfl (fun _ => rfl) (fun old m b _ => getLsbD_fill old m b) hpx hpy
  | false => exact pixelLine_run (i := .erase t) rfl (fun _ => rfl) (fun old m _ hb => getLsbD_erase old m hb) hpx hpy

end Sys2Proof.Machine
end

section
/-! SUPPORT. The command cycle (40_command_cycle.md): the one finish that every command ends with, what a command with a code other than OK
leaves unchanged, and the run of a host whose accesses the engine all admits. -/

namespace Sys2Proof.Machine

/-! ## The cycle (R51) and its finish (R53) -/

theorem ResultCode.setsErr_iff (code : ResultCode) : code.setsErr = true ↔ 2 ≤ code.code.toNat := decide_eq_true_iff

/-- A word that is no legal command runs nothing between the store to CMD and the finish (R51). -/
theorem commandCycle_illegal {w : Word} {e : DecodeError} (h : decode w = .error e) (s : State) :
    commandCycle w s = .next ((s.setCmd w).finish .errIllegal) := by
  rw [commandCycle_of_error h, State.finish_errIllegal]
  rfl

/-- Settles O5, by the two outcomes of the decoder. -/
theorem stepRunsTheDecodedCommand : Obligations.StepRunsTheDecodedCommand := by
  intro s rest w hp
  rw [step_commandWrite hp]
  exact ⟨fun i hd => commandCycle_of_ok hd _, fun e hd => commandCycle_illegal hd _⟩

/-- Settles O12: OK is a code that keeps ERR. -/
theorem nopOnlyClearsResult : Obligations.NopOnlyClearsResult := fun s =>
  congrArg Host.Outcome.next s.finish_ok

/-- Settles O7: the state before the finish of a legal word is the one `exec_shape` gives, that of an illegal word has only CMD written. -/
theorem finishSetsErrFromTheCode : Obligations.FinishSetsErrFromTheCode := by
  constructor
  · intro code s
    refine ⟨rfl, fun herr => ?_, fun hkeep => ?_⟩
    · rw [State.finish_err, code.setsErr_iff.2 herr, Bool.or_true]
    · have hno : code.setsErr = false := Bool.eq_false_of_not_eq_true fun h => Nat.not_le_of_lt hkeep (code.setsErr_iff.1 h)
      rw [State.finish_err, hno, Bool.or_false]
  · intro w s
    cases hd : decode w with
    | ok i =>
      obtain ⟨m, row, col, len, code, hexec⟩ := exec_shape i (s.setCmd w)
      exact ⟨_, code, (commandCycle_of_ok hd s).trans hexec, rfl, rfl⟩
    | error e => exact ⟨s.setCmd w, .errIllegal, commandCycle_illegal hd s, rfl, rfl⟩

/-- Settles O8: none of these fields is among those that `exec_shape` lets a command change. -/
theorem commandsKeepOperandsAndCmd : Obligations.CommandsKeepOperandsAndCmd := by
  intro i s
  obtain ⟨m, row, col, len, code, hexec⟩ := exec_shape i s
  exact ⟨_, hexec, rfl, rfl, rfl, rfl, rfl, rfl, rfl⟩

/-! ## A code other than OK (R52) -/

/-- `u` has RESULT OK, or it is `s` finished by the code in its RESULT and nothing else. -/
def State.onlyFinishedUnlessOk (s u : State) : Prop := u.result ≠ .ok → u = s.finish u.result

theorem State.onlyFinishedUnlessOk_ok (s v : State) : s.onlyFinishedUnlessOk (v.finish .ok) := fun h => absurd rfl h

theorem State.onlyFinishedUnlessOk_finish (s : State) (code : ResultCode) : s.onlyFinishedUnlessOk (s.finish code) := fun _ => rfl

theorem State.onlyFinishedUnlessOk_drawRect (s : State) (t : Target) (op : Byte → Byte → Byte) :
    s.onlyFinishedUnlessOk (s.drawRect t op) := by
  cases hr : s.rectArgs with
  | none => exact State.drawRect_none hr ▸ s.onlyFinishedUnlessOk_finish .rejected
  | some r => exact State.drawRect_some hr ▸ s.onlyFinishedUnlessOk_ok _

theorem State.onlyFinishedUnlessOk_copyRect (s : State) (t : Target) : s.onlyFinishedUnlessOk (s.copyRect t) := by
  cases hw : s.copyArgs with
  | none => exact State.copyRect_none hw ▸ s.onlyFinishedUnlessOk_finish .rejected
  | some w => exact State.copyRect_some hw ▸ s.onlyFinishedUnlessOk_ok _

theorem State.onlyFinishedUnlessOk_drawGlyph (s : State) (t : Target) (size ch : Nat) :
    s.onlyFinishedUnlessOk (s.drawGlyph t size ch) := by
  by_cases hfits : glyphFits s.cfg size (s.signedArg 0) (s.signedArg 1) = true
  · exact State.drawGlyph_fits hfits ▸ s.onlyFinishedUnlessOk_ok _
  · exact State.drawGlyph_not hfits ▸ s.onlyFinishedUnlessOk_finish .rejected

theorem State.onlyFinishedUnlessOk_storeColor12 (s : State) : s.onlyFinishedUnlessOk s.storeColor12 := by
  rcases Nat.lt_or_ge (s.unsignedArg 0) s.cfg.maxLeds with hin | hout
  · exact State.storeColor12_ok hin ▸ s.onlyFinishedUnlessOk_ok _
  · exact State.storeColor12_errRange hout ▸ s.onlyFinishedUnlessOk_finish .errRange

/-- ENCODE makes its two checks before its first store (43_ws2812.md R89). -/
theorem State.onlyFinishedUnlessOk_encodeLeds (s : State) : s.onlyFinishedUnlessOk s.encodeLeds := by
  unfold State.encodeLeds
  split_ifs
  · exact s.onlyFinishedUnlessOk_finish .errRange
  · exact s.onlyFinishedUnlessOk_finish .errNocolor
  · exact s.onlyFinishedUnlessOk_ok _

/-- Settles O9, one case for each command: the five that check their operands by the outcome of the checks, the others always end with OK. -/
theorem commandNotOkChangesStatusOnly : Obligations.CommandNotOkChangesStatusOnly := by
  intro i s
  cases i with
  | nop => exact ⟨_, rfl, s.onlyFinishedUnlessOk_finish .ok⟩
  | fill t => exact ⟨_, rfl, s.onlyFinishedUnlessOk_drawRect t _⟩
  | erase t => exact ⟨_, rfl, s.onlyFinishedUnlessOk_drawRect t _⟩
  | copy t => exact ⟨_, rfl, s.onlyFinishedUnlessOk_copyRect t⟩
  | glyph t size c => exact ⟨_, rfl, s.onlyFinishedUnlessOk_drawGlyph t size c⟩
  | composite => exact ⟨_, rfl, s.onlyFinishedUnlessOk_ok _⟩
  | maskinit => exact ⟨_, rfl, s.onlyFinishedUnlessOk_ok _⟩
  | maskchar ch => exact ⟨_, rfl, s.onlyFinishedUnlessOk_ok _⟩
  | color12 => exact ⟨_, rfl, s.onlyFinishedUnlessOk_storeColor12⟩
  | encode => exact ⟨_, rfl, s.onlyFinishedUnlessOk_encodeLeds⟩

/-! ## Runs without a fault (R56, 60_exceptions.md R92) -/

/-- No command cycle faults, hangs or is refused (R56). -/
theorem commandCycle_answers (w : Word) (s : State) : ∃ t, commandCycle w s = .next t := by
  obtain ⟨v, code, hcycle, -, -⟩ := finishSetsErrFromTheCode.2 w s
  exact ⟨_, hcycle⟩

/-- A row of the map that admits the write answers it (20_memory.md R29 to R33). -/
theorem State.writePlace_answers {p : Place} {w : Width} (h : p.admitsWrite w = true) (s : State) (off : BitVec 16) (v : Word) :
    ∃ t, s.writePlace p off w v = .next t := by
  cases p with
  | cmd => exact commandCycle_answers v s
  | status => exact ⟨_, rfl⟩
  | arg n => exact ⟨_, rfl⟩
  | plane q => exact ⟨_, rfl⟩
  | color => exact ⟨_, rfl⟩
  | ledlen => cases h
  | maskcur => cases h
  | ledbuf => cases h
  | reserved => cases h

theorem step_idle {s : State} (h : s.pending = []) : step s = .next s := by simp only [step, State.serve, h]

/-- The next access of a polite host is admitted, so the step answers. -/
theorem step_answers_of_politeHost {s : State} (h : s.politeHost = true) : ∃ t, step s = .next t := by
  cases hp : s.pending with
  | nil => exact ⟨s, step_idle hp⟩
  | cons op rest =>
    have hop : op.admitted s.cfg = true := List.all_eq_true.1 h op (by simp [hp])
    cases op with
    | read off w => exact ⟨_, step_readAdmitted hp hop⟩
    | write off w v =>
      obtain ⟨t, ht⟩ := State.writePlace_answers (writeAdmitted_iff.1 hop).2 (s.answered rest .written) off v
      exact ⟨t, (step_writeAdmitted hp hop).trans ht⟩
    | reset => exact ⟨_, step_resetPulse hp⟩

/-- A step takes an access off the list and keeps the parameters, so the accesses left stay admitted. -/
theorem step_keeps_politeHost {s t : State} (h : s.politeHost = true) (hstep : step s = .next t) : t.politeHost = true := by
  obtain ⟨hpending, hcfg⟩ := accessesAreTakenInOrder s t hstep
  unfold State.politeHost
  rw [hpending, hcfg]
  exact List.all_eq_true.2 fun op hop => List.all_eq_true.1 h op (List.mem_of_mem_tail hop)

/-- Settles O54, by induction on the number of steps: a polite host's step answers, and its host is polite again. -/
theorem politeHostRunsWithoutFault : Obligations.PoliteHostRunsWithoutFault := by
  intro n
  induction n with
  | zero => exact fun s h => ⟨s, rfl, h⟩
  | succ n ih =>
    intro s h
    obtain ⟨u, hstep⟩ := step_answers_of_politeHost h
    obtain ⟨t, hrun, hpolite⟩ := ih u (step_keeps_politeHost h hstep)
    exact ⟨t, (core_run_next n hstep).trans hrun, hpolite⟩

end Sys2Proof.Machine
end

section
/-! SUPPORT. The geometry of BLIT on integers (41_blit.md): the clipped rectangle of R60, the masks of R61, the stripe alignment of R65, and the
clipped source of COPY of R66. -/

namespace Sys2Proof.Machine

/-! ## The rectangle of R60 -/

theorem rectClip_eq_none_iff {x0 y0 x1 y1 : Int} :
    rectClip x0 y0 x1 y1 = none ↔ max x0 x1 < 0 ∨ 127 < min x0 x1 ∨ max y0 y1 < 0 ∨ 63 < min y0 y1 := by
  simp only [rectClip, ite_eq_left_iff, reduceCtorEq, imp_false, not_not]

/-- A rectangle that is not rejected meets the grid, and is clipped to it edge by edge. -/
theorem rectClip_eq_some {x0 y0 x1 y1 : Int} {r : Rect} (h : rectClip x0 y0 x1 y1 = some r) :
    ¬ (max x0 x1 < 0 ∨ 127 < min x0 x1 ∨ max y0 y1 < 0 ∨ 63 < min y0 y1) ∧
      r = { x0 := (max (min x0 x1) 0).toNat, y0 := (max (min y0 y1) 0).toNat,
            x1 := (min (max x0 x1) 127).toNat, y1 := (min (max y0 y1) 63).toNat } := by
  obtain ⟨hmeets, hr⟩ := Option.ite_none_left_eq_some.1 h
  exact ⟨hmeets, (Option.some.inj hr).symm⟩

/-- Settles O13: a clipped corner is a number of the grid because the rectangle meets the grid. -/
theorem rectangleIsNormalisedAndClipped : Obligations.RectangleIsNormalisedAndClipped := by
  intro x0 y0 x1 y1
  refine ⟨rectClip_eq_none_iff, fun r hr => ?_⟩
  obtain ⟨hmeets, rfl⟩ := rectClip_eq_some hr
  dsimp only
  omega

/-- Settles O14: the stripe mask bit by bit, and the row mask as a stripe mask. -/
theorem masksAreTheTouchedBits : Obligations.MasksAreTheTouchedBits :=
  ⟨fun _ _ _ _ hhi hb => stripeMask_getLsbD hhi hb, fun _ _ _ _ _ _ hlo hhi hb => rowMask_getLsbD hlo hhi hb⟩

/-! ## Stripe alignment (R65) and the source of COPY (R66) -/

/-- Settles O19: integer division by 8 rounds toward minus infinity. -/
theorem stripeAlignmentIsFloor : Obligations.StripeAlignmentIsFloor := by
  intro y
  unfold stripeOf maskLow3
  omega

theorem copyClip_eq_none_iff {x0 y0 x1 y1 xOff yOff : Int} :
    copyClip x0 y0 x1 y1 xOff yOff = none ↔
      min (max x0 x1) (min 127 (127 - xOff)) < max (min x0 x1) (max 0 (-xOff)) ∨
      min (max (stripeOf y0) (stripeOf y1)) (min 7 (7 - stripeOf yOff)) <
        max (min (stripeOf y0) (stripeOf y1)) (max 0 (-stripeOf yOff)) := by
  simp only [copyClip, ite_eq_left_iff, reduceCtorEq, imp_false, not_not]

/-- The clipped source of a copy that is not rejected, neither of whose ranges is empty. -/
theorem copyClip_eq_some {x0 y0 x1 y1 xOff yOff : Int} {w : CopyWindow} (h : copyClip x0 y0 x1 y1 xOff yOff = some w) :
    (w.cx0 ≤ w.cx1 ∧ w.cs0 ≤ w.cs1) ∧
      w = { cs0 := max (min (stripeOf y0) (stripeOf y1)) (max 0 (-stripeOf yOff)),
            cs1 := min (max (stripeOf y0) (stripeOf y1)) (min 7 (7 - stripeOf yOff)),
            cx0 := max (min x0 x1) (max 0 (-xOff)), cx1 := min (max x0 x1) (min 127 (127 - xOff)),
            ds := stripeOf yOff, xOff := xOff } := by
  obtain ⟨hranges, hw⟩ := Option.ite_none_left_eq_some.1 h
  obtain rfl := Option.some.inj hw
  exact ⟨by simpa only [not_or, not_lt] using hranges, rfl⟩

/-- A destination byte of the plane comes from the source byte at the offset's distance (R66). -/
theorem CopyWindow.sourceIndex_destination {w : CopyWindow} {ss sx : Nat} (hs : 0 ≤ ss + w.ds) (hx : 0 ≤ sx + w.xOff) :
    w.sourceIndex (ss + w.ds).toNat (sx + w.xOff).toNat = ss * 128 + sx := by
  unfold CopyWindow.sourceIndex
  omega

/-- Settles O20: the two `max` and `min` bounds of each range keep source and destination in the plane. -/
theorem copyIsClippedAtTheSource : Obligations.CopyIsClippedAtTheSource := by
  intro x0 y0 x1 y1 xOff yOff
  refine ⟨copyClip_eq_none_iff, fun w hw => ?_⟩
  obtain ⟨hranges, rfl⟩ := copyClip_eq_some hw
  dsimp only at hranges ⊢
  refine ⟨rfl, rfl, rfl, rfl, rfl, rfl, by omega, by omega, by omega, by omega, by omega, by omega, by omega, by omega, by omega, by omega,
    fun ss sx hss hsx => ⟨?_, by omega, by omega⟩⟩
  exact CopyWindow.sourceIndex_destination (by dsimp only; omega) (by dsimp only; omega)

end Sys2Proof.Machine
end

section
/-! SUPPORT. What FILL, ERASE, COPY and GLYPH do (41_blit.md R62 to R72): each is one store to a rectangle of bytes and a finish, or a rejection. -/

namespace Sys2Proof.Machine

/-! ## A store to a rectangle, or a rejection, and the finish -/

/-- A command that stores to a rectangle and finishes OK changes its bytes and STATUS.RESULT only. -/
theorem State.storeRect_finish_frame (s : State) (p : Plane) (s0 s1 x0 : Nat) {x1 : Nat} (hx : x1 ≤ 127) (g : Nat → Nat → Byte) :
    s.onlyMemoryAndStatus ((s.storeRect p s0 s1 x0 x1 g).finish .ok) ∧ ((s.storeRect p s0 s1 x0 x1 g).finish .ok).err = s.err ∧
      ∀ a, ¬ inRect p s0 s1 x0 x1 a → ((s.storeRect p s0 s1 x0 x1 g).finish .ok).byte a = s.byte a := by
  rw [State.finish_ok]
  exact ⟨rfl, rfl, fun a => (State.byte_storeRect s p hx g a).2⟩

/-- A store to a rectangle of what its bytes hold already leaves a memory in canonical form the same list. -/
theorem State.mem_storeRect_of_eq {s : State} (hwf : Memory.wf s.unwritten s.mem) {p : Plane} {s0 s1 x0 x1 : Nat} (hx : x1 ≤ 127)
    {g : Nat → Nat → Byte} (hg : ∀ st x, g st x = s.planeByte p (st * 128 + x)) : (s.storeRect p s0 s1 x0 x1 g).mem = s.mem := by
  refine canonicalMemoriesThatReadAlikeAreEqual _ _ _ (State.wf_store hwf _ _ _) hwf fun a => ?_
  obtain ⟨hin, hout⟩ := State.byte_storeRect s p (s0 := s0) (s1 := s1) (x0 := x0) hx g a
  by_cases h : inRect p s0 s1 x0 x1 a
  · have hplace : p.base + ((a - p.base) / 128 * 128 + (a - p.base) % 128) = a := by
      have hbase := h.1
      omega
    refine (hin h).trans ((hg _ _).trans ?_)
    unfold State.planeByte
    rw [hplace]
    rfl
  · exact hout h

/-! ## FILL and ERASE -/

theorem State.drawRect_result {t : Target} {op : Byte → Byte → Byte} {s : State} {r : Rect} (hr : s.rectArgs = some r) :
    (s.drawRect t op).result = .ok := by
  rw [State.drawRect_some hr, State.finish_result]

/-- Settles O15: FILL makes the masked bits of every byte of the rectangle 1, ERASE makes them 0. -/
theorem fillSetsAndEraseClearsThePixels : Obligations.FillSetsAndEraseClearsThePixels := fun _ _ _ hr =>
  ⟨⟨_, rfl, State.drawRect_result hr, fun p _ _ hx hy => State.pixel_drawRect hr (fun old m b _ => getLsbD_fill old m b) p hx hy⟩,
    ⟨_, rfl, State.drawRect_result hr, fun p _ _ hx hy => State.pixel_drawRect hr (fun old m _ hb => getLsbD_erase old m hb) p hx hy⟩⟩

/-- What a command that draws a rectangle leaves unchanged, whatever it does to the bytes of the rectangle (R62, R63). -/
theorem State.drawRect_frame (t : Target) (op : Byte → Byte → Byte) (s : State) :
    s.onlyMemoryAndStatus (s.drawRect t op) ∧ (s.drawRect t op).err = s.err ∧
      ∀ a, (∀ r, s.rectArgs = some r → ¬ inRect (targetPlane t) (r.y0 / 8) (r.y1 / 8) r.x0 r.x1 a) →
        (s.drawRect t op).byte a = s.byte a := by
  cases hr : s.rectArgs with
  | none =>
    rw [State.drawRect_none hr, State.finish_rejected]
    exact ⟨rfl, rfl, fun _ _ => rfl⟩
  | some r =>
    obtain ⟨-, hx, -⟩ := State.rectArgs_bounds hr
    rw [State.drawRect_some hr]
    obtain ⟨hregs, herr, hbytes⟩ := s.storeRect_finish_frame (targetPlane t) (r.y0 / 8) (r.y1 / 8) r.x0 hx _
    exact ⟨hregs, herr, fun a ha => hbytes a (ha r rfl)⟩

/-- Settles O16: FILL and ERASE draw the same rectangle. -/
theorem fillAndEraseFrame : Obligations.FillAndEraseFrame := by
  intro t s i hi
  simp only [List.mem_cons, List.not_mem_nil, or_false] at hi
  rcases hi with rfl | rfl
  · exact ⟨_, rfl, s.drawRect_frame t _⟩
  · exact ⟨_, rfl, s.drawRect_frame t _⟩

/-! ## COPY -/

/-- After a copy a destination byte holds what its source byte held before (R67). -/
theorem State.planeByte_copyRect {t : Target} {s : State} {w : CopyWindow} (hw : s.copyArgs = some w) {ss sx : Nat}
    (hss : w.cs0 ≤ ss ∧ ss ≤ w.cs1) (hsx : w.cx0 ≤ sx ∧ sx ≤ w.cx1) :
    (s.copyRect t).planeByte (targetPlane t) ((ss + w.ds) * 128 + (sx + w.xOff)).toNat = s.planeByte (targetPlane t) (ss * 128 + sx) := by
  have hb := State.copyArgs_bounds hw
  have hindex : ((ss + w.ds) * 128 + (sx + w.xOff)).toNat = (ss + w.ds).toNat * 128 + (sx + w.xOff).toNat := by omega
  rw [State.copyRect_some hw, State.finish_planeByte, hindex,
    State.planeByte_storeRect s _ _ (by omega) (by omega) _ (by omega) (by omega), if_pos ⟨rfl, by omega, by omega⟩,
    CopyWindow.sourceIndex_destination (by omega) (by omega)]

/-- What a copy leaves unchanged (R67). -/
theorem State.copyRect_frame {t : Target} {s : State} {w : CopyWindow} (hw : s.copyArgs = some w) :
    s.onlyMemoryAndStatus (s.copyRect t) ∧ (s.copyRect t).err = s.err ∧
      ∀ a, ¬ inRect (targetPlane t) (w.cs0 + w.ds).toNat (w.cs1 + w.ds).toNat (w.cx0 + w.xOff).toNat (w.cx1 + w.xOff).toNat a →
        (s.copyRect t).byte a = s.byte a := by
  have hb := State.copyArgs_bounds hw
  rw [State.copyRect_some hw]
  exact s.storeRect_finish_frame _ _ _ _ (by omega) _

/-- Settles O21: the destination by the bytes' sources, the rest by the frame. -/
theorem copyMovesTheOldBytes : Obligations.CopyMovesTheOldBytes := by
  intro t s w hw
  obtain ⟨hregs, herr, hbytes⟩ := State.copyRect_frame (t := t) hw
  exact ⟨_, rfl, by rw [State.copyRect_some hw, State.finish_result], fun ss sx hss hsx => State.planeByte_copyRect hw hss hsx,
    hbytes, hregs, herr⟩

/-- A copy by no columns and no stripes reads every byte it writes at its own place (R68). -/
theorem CopyWindow.sourceIndex_self {w : CopyWindow} (hds : w.ds = 0) (hx : w.xOff = 0) (st x : Nat) :
    w.sourceIndex st x = st * 128 + x := by
  unfold CopyWindow.sourceIndex
  omega

/-- An offset as wide as the plane leaves no column to copy (R66). -/
theorem copyClip_eq_none_of_wide {x0 y0 x1 y1 xOff yOff : Int} (h : 128 ≤ xOff ∨ xOff ≤ -128) :
    copyClip x0 y0 x1 y1 xOff yOff = none :=
  copyClip_eq_none_iff.2 (.inl (by omega))

/-- Settles O22: such a copy stores to each byte what it holds, or is rejected. -/
theorem copyByNothingChangesNothing : Obligations.CopyByNothingChangesNothing := by
  intro t s
  refine ⟨fun hwf hx hy => ⟨s.copyRect t, rfl, ?_⟩, fun hwide => ?_⟩
  · cases hw : s.copyArgs with
    | none => rw [State.copyRect_none hw, State.finish_mem]
    | some w =>
      have hb := State.copyArgs_bounds hw
      have hweq := (copyClip_eq_some hw).2
      have hds : w.ds = 0 := (congrArg CopyWindow.ds hweq).trans (by dsimp only [stripeOf, maskLow3]; omega)
      have hxOff : w.xOff = 0 := (congrArg CopyWindow.xOff hweq).trans hx
      rw [State.copyRect_some hw, State.finish_mem]
      exact State.mem_storeRect_of_eq hwf (by omega) fun st x => by rw [CopyWindow.sourceIndex_self hds hxOff]
  · have hnone : s.copyArgs = none := copyClip_eq_none_of_wide hwide
    exact congrArg Host.Outcome.next ((State.copyRect_none hnone).trans s.finish_rejected)

/-! ## GLYPH -/

theorem exec_glyph_rejected {t : Target} {size c : Nat} {s : State}
    (h : ¬ glyphFits s.cfg size (s.signedArg 0) (s.signedArg 1) = true) :
    exec (.glyph t size c) s = .next { s with result := .rejected } :=
  congrArg Host.Outcome.next ((State.drawGlyph_not h).trans s.finish_rejected)

section
variable {t : Target} {size c x y : Nat} {s : State} (hsize : 1 ≤ size ∧ size ≤ 4) (hx : s.signedArg 0 = x) (hy : s.signedArg 1 = y)
  (hrows : y + 8 * size ≤ 64) (hcols : x + s.cfg.glyphWidth size ≤ 128)
include hsize hx hy hrows hcols

/-- A glyph that fits, at the column and row that its operands are (R72). -/
theorem State.drawGlyph_at :
    s.drawGlyph t size c =
      (s.storeRect (targetPlane t) (y / 8) (y / 8 + size - 1) x (x + s.cfg.glyphWidth size - 1) fun st k =>
        s.cfg.fontByte size (glyphIndex s.cfg c) (st - y / 8) (k - x)).finish .ok := by
  have hfits : glyphFits s.cfg size (s.signedArg 0) (s.signedArg 1) = true := glyphFits_iff.2 ⟨hsize, by omega⟩
  rw [State.drawGlyph_fits hfits, hx, hy, Int.toNat_natCast, Int.toNat_natCast]

/-- Each byte of the glyph's stripe-rows is replaced by its font byte (R71). -/
theorem State.planeByte_drawGlyph {r k : Nat} (hr : r < size) (hk : k < s.cfg.glyphWidth size) :
    (s.drawGlyph t size c).planeByte (targetPlane t) ((y / 8 + r) * 128 + x + k) =
      s.cfg.fontByte size (glyphIndex s.cfg c) r k := by
  rw [State.drawGlyph_at hsize hx hy hrows hcols, State.finish_planeByte, Nat.add_assoc,
    State.planeByte_storeRect s _ _ (by omega) (by omega) _ (by omega) (by omega), if_pos ⟨rfl, by omega, by omega⟩,
    Nat.add_sub_cancel_left, Nat.add_sub_cancel_left]

/-- What a glyph that fits leaves unchanged. -/
theorem State.drawGlyph_frame :
    s.onlyMemoryAndStatus (s.drawGlyph t size c) ∧ (s.drawGlyph t size c).err = s.err ∧
      ∀ a, ¬ inRect (targetPlane t) (y / 8) (y / 8 + size - 1) x (x + s.cfg.glyphWidth size - 1) a →
        (s.drawGlyph t size c).byte a = s.byte a := by
  rw [State.drawGlyph_at hsize hx hy hrows hcols]
  exact s.storeRect_finish_frame _ _ _ _ (by omega) _

end

/-- Settles O23: the two checks of R69, and the one store of the glyph's font bytes. -/
theorem glyphReplacesBytesWithFontBytes : Obligations.GlyphReplacesBytesWithFontBytes := by
  intro t size c s x y
  refine ⟨fun hsize => exec_glyph_rejected fun hfits => hsize (glyphFits_iff.1 hfits).1,
    fun hout => exec_glyph_rejected fun hfits => ?_, fun hlo hhi hx hy hrows hcols => ?_⟩
  · obtain ⟨-, hfit⟩ := glyphFits_iff.1 hfits
    omega
  · have hsize : 1 ≤ size ∧ size ≤ 4 := ⟨hlo, hhi⟩
    obtain ⟨hregs, herr, hbytes⟩ := State.drawGlyph_frame (t := t) (c := c) hsize hx hy hrows hcols
    refine ⟨_, rfl, ?_, herr, hregs, fun r k => State.planeByte_drawGlyph hsize hx hy hrows hcols, hbytes⟩
    rw [State.drawGlyph_at hsize hx hy hrows hcols, State.finish_result]

end Sys2Proof.Machine
end

section
/-! SUPPORT. Bit lanes do not mix (41_blit.md R73): every store of the BLIT and MASK commands takes planes that agree on one bit of every byte to
planes that agree on it. -/

namespace Sys2Proof.Machine

/-- Two states agree on bit `j` of every plane byte. -/
def State.agreeOnBit (j : Nat) (s₁ s₂ : State) : Prop :=
  ∀ (p : Plane) (k : Nat), k < 1024 → (s₁.planeByte p k).getLsbD j = (s₂.planeByte p k).getLsbD j

/-! ## The stores -/

theorem State.agreeOnBit.finish {j : Nat} {s₁ s₂ : State} (h : s₁.agreeOnBit j s₂) (code : ResultCode) :
    (s₁.finish code).agreeOnBit j (s₂.finish code) := h

theorem State.agreeOnBit.setCursor {j : Nat} {s₁ s₂ : State} (h : s₁.agreeOnBit j s₂) (row₁ col₁ row₂ col₂ : Nat) :
    (s₁.setCursor row₁ col₁).agreeOnBit j (s₂.setCursor row₂ col₂) := h

theorem State.agreeOnBit.storePlane {j : Nat} {s₁ s₂ : State} (h : s₁.agreeOnBit j s₂) (p : Plane) {f₁ f₂ : Nat → Byte}
    (hf : ∀ k, k < 1024 → (f₁ k).getLsbD j = (f₂ k).getLsbD j) : (s₁.storePlane p f₁).agreeOnBit j (s₂.storePlane p f₂) := by
  intro q k hk
  rw [State.planeByte_storePlane s₁ p q f₁ hk, State.planeByte_storePlane s₂ p q f₂ hk]
  split_ifs
  · exact hf k hk
  · exact h q k hk

theorem State.agreeOnBit.setPlaneByte {j : Nat} {s₁ s₂ : State} (h : s₁.agreeOnBit j s₂) (p : Plane) {i : Nat} (hi : i < 1024)
    {v₁ v₂ : Byte} (hv : v₁.getLsbD j = v₂.getLsbD j) : (s₁.setPlaneByte p i v₁).agreeOnBit j (s₂.setPlaneByte p i v₂) := by
  intro q k hk
  rw [State.planeByte_setPlaneByte s₁ p q v₁ hi hk, State.planeByte_setPlaneByte s₂ p q v₂ hi hk]
  split_ifs
  · exact hv
  · exact h q k hk

theorem State.agreeOnBit.storeRect {j : Nat} {s₁ s₂ : State} (h : s₁.agreeOnBit j s₂) (p : Plane) {s0 s1 x0 x1 : Nat} (hs : s1 ≤ 7)
    (hx : x1 ≤ 127) {g₁ g₂ : Nat → Nat → Byte}
    (hg : ∀ st x, s0 ≤ st ∧ st ≤ s1 → x0 ≤ x ∧ x ≤ x1 → (g₁ st x).getLsbD j = (g₂ st x).getLsbD j) :
    (s₁.storeRect p s0 s1 x0 x1 g₁).agreeOnBit j (s₂.storeRect p s0 s1 x0 x1 g₂) := by
  intro q k hk
  obtain ⟨st, x, rfl, hst, hxx⟩ : ∃ st x, k = st * 128 + x ∧ st ≤ 7 ∧ x ≤ 127 := ⟨k / 128, k % 128, by omega, by omega, by omega⟩
  rw [State.planeByte_storeRect s₁ p q hs hx g₁ hst hxx, State.planeByte_storeRect s₂ p q hs hx g₂ hst hxx]
  split_ifs with hin
  · obtain ⟨-, hstripe, hcol⟩ := hin
    exact hg st x hstripe hcol
  · exact h q _ hk

/-! ## The commands -/

theorem State.rectArgs_congr {s₁ s₂ : State} (h : s₁.args = s₂.args) : s₁.rectArgs = s₂.rectArgs := by
  simp only [State.rectArgs, State.signedArg, h]

theorem State.copyArgs_congr {s₁ s₂ : State} (h : s₁.args = s₂.args) : s₁.copyArgs = s₂.copyArgs := by
  simp only [State.copyArgs, State.signedArg, h]

theorem State.agreeOnBit.drawRect {j : Nat} {s₁ s₂ : State} (h : s₁.agreeOnBit j s₂) (hargs : s₁.args = s₂.args) (t : Target)
    {op : Byte → Byte → Byte}
    (hop : ∀ old₁ old₂ m : Byte, old₁.getLsbD j = old₂.getLsbD j → (op old₁ m).getLsbD j = (op old₂ m).getLsbD j) :
    (s₁.drawRect t op).agreeOnBit j (s₂.drawRect t op) := by
  have hsame := State.rectArgs_congr hargs
  cases hr : s₁.rectArgs with
  | none =>
    rw [State.drawRect_none hr, State.drawRect_none (hsame ▸ hr)]
    exact h.finish .rejected
  | some r =>
    obtain ⟨-, hx, -, hy⟩ := State.rectArgs_bounds hr
    rw [State.drawRect_some hr, State.drawRect_some (hsame ▸ hr)]
    exact (h.storeRect _ (by omega) hx fun st x hst hxx => hop _ _ _ (h _ _ (by omega))).finish .ok

theorem State.agreeOnBit.copyRect {j : Nat} {s₁ s₂ : State} (h : s₁.agreeOnBit j s₂) (hargs : s₁.args = s₂.args) (t : Target) :
    (s₁.copyRect t).agreeOnBit j (s₂.copyRect t) := by
  have hsame := State.copyArgs_congr hargs
  cases hw : s₁.copyArgs with
  | none =>
    rw [State.copyRect_none hw, State.copyRect_none (hsame ▸ hw)]
    exact h.finish .rejected
  | some w =>
    have hb := State.copyArgs_bounds hw
    rw [State.copyRect_some hw, State.copyRect_some (hsame ▸ hw)]
    refine (h.storeRect _ (by omega) (by omega) fun st x hst hxx => h _ _ ?_).finish .ok
    unfold CopyWindow.sourceIndex
    omega

/-- A glyph's bytes are the font's, whatever the planes hold (R71). -/
theorem State.agreeOnBit.drawGlyph {j : Nat} {s₁ s₂ : State} (h : s₁.agreeOnBit j s₂) (hcfg : s₁.cfg = s₂.cfg) (hargs : s₁.args = s₂.args)
    (t : Target) (size c : Nat) : (s₁.drawGlyph t size c).agreeOnBit j (s₂.drawGlyph t size c) := by
  unfold State.drawGlyph State.signedArg
  rw [hcfg, hargs]
  split_ifs with hfits
  · have hfit := glyphFits_iff.1 hfits
    have hwidth := s₂.cfg.glyphWidth_bounds size
    exact (h.storeRect _ (by omega) (by omega) fun _ _ _ _ => rfl).finish .ok
  · exact h.finish .rejected

theorem State.agreeOnBit.compose {j : Nat} {s₁ s₂ : State} (h : s₁.agreeOnBit j s₂) : s₁.compose.agreeOnBit j s₂.compose :=
  h.storePlane .out fun k hk => by
    simp only [BitVec.getLsbD_and, BitVec.getLsbD_or, h _ k hk]

theorem State.agreeOnBit.loadMasks {j : Nat} {s₁ s₂ : State} (h : s₁.agreeOnBit j s₂) (hcfg : s₁.cfg = s₂.cfg) :
    s₁.loadMasks.agreeOnBit j s₂.loadMasks := by
  unfold State.loadMasks
  rw [hcfg]
  exact (h.storePlane .andm fun _ _ => rfl).storePlane .orm fun _ _ => rfl

/-- The cursor's byte keeps or changes its bit `j` by what that bit was and by where the cursor is (42_mask.md R79). -/
theorem State.agreeOnBit.markPixel {j : Nat} {s₁ s₂ : State} (h : s₁.agreeOnBit j s₂) (hrow : s₁.mcRow = s₂.mcRow)
    (hcol : s₁.mcCol = s₂.mcCol) (hgrid : s₂.mcRow < 64 ∧ s₂.mcCol < 128) (ch : Nat) :
    (s₁.markPixel ch).agreeOnBit j (s₂.markPixel ch) := by
  have hindex : s₁.cursorIndex = s₂.cursorIndex := by simp only [State.cursorIndex, hrow, hcol]
  have hbit : s₁.cursorBit = s₂.cursorBit := by simp only [State.cursorBit, hrow]
  have hi : s₂.cursorIndex < 1024 := by
    unfold State.cursorIndex
    omega
  unfold State.markPixel
  rw [hindex, hbit]
  split_ifs
  · exact h.setPlaneByte .andm hi (by simp only [BitVec.getLsbD_and, h _ _ hi])
  · exact h.setPlaneByte .orm hi (by simp only [BitVec.getLsbD_or, h _ _ hi])
  · exact h

theorem State.agreeOnBit.maskChar {j : Nat} {s₁ s₂ : State} (h : s₁.agreeOnBit j s₂) (hrow : s₁.mcRow = s₂.mcRow)
    (hcol : s₁.mcCol = s₂.mcCol) (ch : Nat) : (s₁.maskChar ch).agreeOnBit j (s₂.maskChar ch) := by
  unfold State.maskChar
  rw [hrow, hcol]
  split_ifs with hend hgrid
  · exact h
  · exact (h.markPixel hrow hcol hgrid ch).setCursor _ _ _ _
  · exact h.setCursor _ _ _ _

/-- Settles O30, one case for each command. -/
theorem planeBitsDoNotMix : Obligations.PlaneBitsDoNotMix := by
  intro t size c i hi s₁ s₂ j hcfg hargs hrow hcol h
  have h : s₁.agreeOnBit j s₂ := h
  simp only [List.mem_cons, List.not_mem_nil, or_false] at hi
  rcases hi with rfl | rfl | rfl | rfl | rfl | rfl | rfl
  · exact ⟨_, _, rfl, rfl, h.drawRect hargs t fun _ _ m hold => by rw [BitVec.getLsbD_or, BitVec.getLsbD_or, hold]⟩
  · exact ⟨_, _, rfl, rfl, h.drawRect hargs t fun _ _ m hold => by rw [BitVec.getLsbD_and, BitVec.getLsbD_and, hold]⟩
  · exact ⟨_, _, rfl, rfl, h.copyRect hargs t⟩
  · exact ⟨_, _, rfl, rfl, h.drawGlyph hcfg hargs t size c⟩
  · exact ⟨_, _, rfl, rfl, h.compose.finish .ok⟩
  · exact ⟨_, _, rfl, rfl, ((h.loadMasks hcfg).setCursor 0 0 0 0).finish .ok⟩
  · exact ⟨_, _, rfl, rfl, (h.maskChar hrow hcol c).finish .ok⟩

end Sys2Proof.Machine
end

section
/-! SUPPORT. COMPOSITE (42_mask.md R74, R75): one store to OUT, whose bytes are computed from the other three planes, and a finish. -/

namespace Sys2Proof.Machine

/-! ## The bytes and the pixels after it -/

theorem State.planeByte_compose_out (s : State) {i : Nat} (hi : i < 1024) :
    s.compose.planeByte .out i = (s.planeByte .fb i ||| s.planeByte .orm i) &&& s.planeByte .andm i := by
  unfold State.compose
  rw [State.planeByte_storePlane s .out .out _ hi, if_pos rfl]

theorem State.planeByte_compose_other (s : State) {p : Plane} (hp : p ≠ .out) {i : Nat} (hi : i < 1024) :
    s.compose.planeByte p i = s.planeByte p i := by
  unfold State.compose
  rw [State.planeByte_storePlane s .out p _ hi, if_neg hp]

theorem State.byte_compose_outside (s : State) {a : Nat} (ha : ¬ (Plane.out.base ≤ a ∧ a < Plane.out.base + 1024)) :
    s.compose.byte a = s.byte a := by
  unfold State.compose
  rw [State.byte_storePlane, if_neg ha]

/-- A pixel of the grid lies in a byte of its plane (10_state.md R11). -/
theorem pixel_index_lt {x y : Nat} (hx : x < 128) (hy : y < 64) : y / 8 * 128 + x < 1024 := by omega

theorem State.pixel_compose_out (s : State) {x y : Nat} (hx : x < 128) (hy : y < 64) :
    s.compose.pixel .out x y = ((s.pixel .fb x y || s.pixel .orm x y) && s.pixel .andm x y) := by
  unfold State.pixel
  rw [State.planeByte_compose_out s (pixel_index_lt hx hy), BitVec.getLsbD_and, BitVec.getLsbD_or]

/-- Settles O24: a pixel of OUT is (FB or ORM) and ANDM, bit by bit. -/
theorem compositeGivesEachPixel : Obligations.CompositeGivesEachPixel := by
  intro s
  refine ⟨s.compose.finish .ok, rfl, rfl, by rw [State.finish_ok]; rfl, by rw [State.finish_ok]; rfl, fun x y hx hy => ?_,
    fun a => s.byte_compose_outside⟩
  rw [State.finish_pixel, State.pixel_compose_out s hx hy]
  refine ⟨fun handm => ?_, fun handm horm => ?_, fun handm horm => ?_⟩
  · rw [handm, Bool.and_false]
  · rw [handm, horm, Bool.or_true, Bool.and_true]
  · rw [handm, horm, Bool.or_false, Bool.and_true]

/-! ## What it depends on -/

/-- A store to a plane of what its bytes hold already leaves a memory in canonical form the same list. -/
theorem State.mem_storePlane_of_eq {s : State} (hwf : Memory.wf s.unwritten s.mem) {p : Plane} {f : Nat → Byte}
    (hf : ∀ i, i < 1024 → f i = s.planeByte p i) : (s.storePlane p f).mem = s.mem := by
  refine canonicalMemoriesThatReadAlikeAreEqual _ _ _ (State.wf_store hwf _ _ _) hwf fun a => ?_
  refine (s.byte_storePlane p f a).trans ?_
  split_ifs with ha
  · refine (hf _ (by omega)).trans ?_
    unfold State.planeByte
    rw [Nat.add_sub_cancel' ha.1]
    rfl
  · rfl

/-- A second COMPOSITE finds in OUT what it would store there (R74). -/
theorem State.mem_compose_compose {s : State} (hwf : Memory.wf s.unwritten s.mem) : s.compose.compose.mem = s.compose.mem := by
  have hwf' : Memory.wf s.compose.unwritten s.compose.mem := State.wf_store hwf _ _ _
  refine State.mem_storePlane_of_eq hwf' fun i hi => ?_
  rw [State.planeByte_compose_other s (by decide) hi, State.planeByte_compose_other s (by decide) hi,
    State.planeByte_compose_other s (by decide) hi, State.planeByte_compose_out s hi]

/-- Settles O25: every byte of OUT is computed from bytes of the other planes, which COMPOSITE leaves as they are. -/
theorem compositeDependsOnThreePlanes : Obligations.CompositeDependsOnThreePlanes := by
  refine ⟨fun s t h => ⟨_, _, rfl, rfl, fun i hi => ?_⟩, fun s hwf => ⟨_, _, rfl, rfl, State.mem_compose_compose hwf⟩⟩
  rw [State.finish_planeByte, State.finish_planeByte, State.planeByte_compose_out s hi, State.planeByte_compose_out t hi,
    h .fb (by decide) i hi, h .andm (by decide) i hi, h .orm (by decide) i hi]

end Sys2Proof.Machine
end

section
/-! SUPPORT. The mask text (42_mask.md R76 to R79): what MASKINIT loads, what one character does, and by induction what a whole text does. -/

namespace Sys2Proof.Machine

/-! ## MASKINIT (R76) -/

/-- The store to ORM leaves ANDM, and neither store reaches FB or OUT. -/
theorem State.planeByte_loadMasks (s : State) (p : Plane) {i : Nat} (hi : i < 1024) :
    s.loadMasks.planeByte p i =
      if p = .orm then s.cfg.maskDefaultOr i else if p = .andm then s.cfg.maskDefaultAnd i else s.planeByte p i := by
  unfold State.loadMasks
  rw [State.planeByte_storePlane _ .orm p _ hi, State.planeByte_storePlane s .andm p _ hi]

theorem State.pixel_loadMasks (s : State) (p : Plane) {x y : Nat} (hx : x < 128) (hy : y < 64) :
    s.loadMasks.pixel p x y =
      if p = .orm then (s.cfg.maskDefaultOr (y / 8 * 128 + x)).getLsbD (y % 8)
      else if p = .andm then (s.cfg.maskDefaultAnd (y / 8 * 128 + x)).getLsbD (y % 8) else s.pixel p x y := by
  unfold State.pixel
  rw [State.planeByte_loadMasks s p (pixel_index_lt hx hy)]
  split_ifs <;> rfl

theorem State.byte_loadMasks_outside (s : State) {a : Nat} (ha : ¬ (Plane.andm.base ≤ a ∧ a < Plane.orm.base + 1024)) :
    s.loadMasks.byte a = s.byte a := by
  unfold State.loadMasks
  simp only [Plane.base] at ha
  rw [State.byte_storePlane, if_neg (by simp only [Plane.base]; omega), State.byte_storePlane,
    if_neg (by simp only [Plane.base]; omega)]

/-- Settles O26: two stores of a default mask, and the cursor. -/
theorem maskinitLoadsTheDefaults : Obligations.MaskinitLoadsTheDefaults := by
  intro s
  refine ⟨(s.loadMasks.setCursor 0 0).finish .ok, rfl, rfl, by rw [State.finish_ok]; rfl, by rw [State.finish_ok]; rfl,
    fun i hi => ⟨?_, ?_⟩, fun a => s.byte_loadMasks_outside⟩
  · exact s.planeByte_loadMasks .andm hi
  · exact s.planeByte_loadMasks .orm hi

/-! ## One character (R78, R79) -/

/-- A cursor at row 64 is below the grid: no character marks a pixel there or leaves the row (R78). -/
theorem State.maskChar_row64 {s : State} (hrow : s.mcRow = 64) (ch : Nat) : (s.maskChar ch).mem = s.mem ∧ (s.maskChar ch).mcRow = 64 := by
  by_cases hend : ch = 0x0A
  · subst hend
    rw [State.maskChar_lineEnd]
    unfold State.newLine
    rw [hrow]
    exact ⟨rfl, rfl⟩
  · unfold State.maskChar
    rw [if_neg hend, if_neg (by omega)]
    exact ⟨rfl, hrow⟩

/-- Settles O27, the line end by `State.newLine` and row 64 by the two kinds of character. -/
theorem lineEndMovesToTheNextRow : Obligations.LineEndMovesToTheNextRow := by
  refine fun s => ⟨?_, fun hrow ch => ⟨_, rfl, State.maskChar_row64 hrow ch⟩⟩
  change Host.Outcome.next ((s.maskChar 0x0A).finish .ok) = _
  rw [State.maskChar_lineEnd, State.finish_ok]
  rfl

/-- What a pixel of plane `p` becomes by the character of the text at its place, if there is one: 'X' clears it in ANDM, '+' sets it in ORM
(R77, R79). -/
def Plane.marked (p : Plane) (ch : Option Nat) (old : Bool) : Bool :=
  if p = .andm ∧ ch = some 0x58 then false else if p = .orm ∧ ch = some 0x2B then true else old

@[simp] theorem Plane.marked_none (p : Plane) (old : Bool) : p.marked none old = old := by simp [Plane.marked]

theorem Plane.marked_cross (p : Plane) (old : Bool) : p.marked (some 0x58) old = if p = .andm then false else old := by
  simp [Plane.marked]

theorem Plane.marked_plus (p : Plane) (old : Bool) : p.marked (some 0x2B) old = if p = .orm then true else old := by
  simp [Plane.marked]

theorem Plane.marked_other {ch : Nat} (hcross : ch ≠ 0x58) (hplus : ch ≠ 0x2B) (p : Plane) (old : Bool) :
    p.marked (some ch) old = old := by
  simp [Plane.marked, hcross, hplus]

theorem Plane.marked_andm (ch : Option Nat) (old : Bool) : Plane.andm.marked ch old = if ch = some 0x58 then false else old := by
  simp [Plane.marked]

theorem Plane.marked_orm (ch : Option Nat) (old : Bool) : Plane.orm.marked ch old = if ch = some 0x2B then true else old := by
  simp [Plane.marked]

theorem Plane.marked_unmasked {p : Plane} (handm : p ≠ .andm) (horm : p ≠ .orm) (ch : Option Nat) (old : Bool) :
    p.marked ch old = old := by
  simp [Plane.marked, handm, horm]

/-- Giving the byte under the cursor a value that differs in the cursor's bit at most changes the pixel under the cursor at most. -/
theorem State.pixel_setCursorByte {s : State} (hgrid : s.mcRow < 64 ∧ s.mcCol < 128) {p : Plane} {v : Byte} {on : Bool}
    (hv : ∀ b, b < 8 → v.getLsbD b = if s.cursorBit.getLsbD b then on else (s.planeByte p s.cursorIndex).getLsbD b)
    (q : Plane) {x y : Nat} (hx : x < 128) (hy : y < 64) :
    (s.setPlaneByte p s.cursorIndex v).pixel q x y = if (x = s.mcCol ∧ y = s.mcRow) ∧ q = p then on else s.pixel q x y := by
  have hcursor : s.cursorIndex < 1024 := pixel_index_lt hgrid.2 hgrid.1
  have hindex : y / 8 * 128 + x = s.cursorIndex ↔ y / 8 = s.mcRow / 8 ∧ x = s.mcCol := by
    have hcol := hgrid.2
    unfold State.cursorIndex
    omega
  unfold State.pixel
  rw [State.planeByte_setPlaneByte s p q v hcursor (pixel_index_lt hx hy)]
  by_cases hbyte : q = p ∧ y / 8 * 128 + x = s.cursorIndex
  · obtain ⟨rfl, hat⟩ := hbyte
    have hplace := hindex.1 hat
    rw [if_pos ⟨rfl, hat⟩, hv _ (by omega), hat]
    unfold State.cursorBit
    rw [bitMask_getLsbD (by omega)]
    exact if_congr (by simp only [decide_eq_true_eq, and_true]; omega) rfl rfl
  · rw [if_neg hbyte, if_neg]
    rintro ⟨⟨hcol, hrow⟩, hp⟩
    exact hbyte ⟨hp, hindex.2 ⟨by rw [hrow], hcol⟩⟩

theorem State.pixel_markPixel {s : State} (hgrid : s.mcRow < 64 ∧ s.mcCol < 128) (ch : Nat) (p : Plane) {x y : Nat} (hx : x < 128)
    (hy : y < 64) :
    (s.markPixel ch).pixel p x y = if x = s.mcCol ∧ y = s.mcRow then p.marked (some ch) (s.pixel p x y) else s.pixel p x y := by
  by_cases hcross : ch = 0x58
  · subst hcross
    rw [Plane.marked_cross, ← ite_and]
    exact State.pixel_setCursorByte hgrid (fun b hb => getLsbD_erase _ _ hb) p hx hy
  · by_cases hplus : ch = 0x2B
    · subst hplus
      rw [Plane.marked_plus, ← ite_and]
      exact State.pixel_setCursorByte hgrid (fun b _ => getLsbD_fill _ _ b) p hx hy
    · unfold State.markPixel
      rw [if_neg hcross, if_neg hplus, Plane.marked_other hcross hplus, ite_self]

theorem State.pixel_maskChar {s : State} {ch : Nat} (hch : ch ≠ 0x0A) (p : Plane) {x y : Nat} (hx : x < 128) (hy : y < 64) :
    (s.maskChar ch).pixel p x y = if x = s.mcCol ∧ y = s.mcRow then p.marked (some ch) (s.pixel p x y) else s.pixel p x y := by
  unfold State.maskChar
  rw [if_neg hch, State.setCursor_pixel]
  split_ifs with hgrid hat hat
  · rw [State.pixel_markPixel hgrid ch p hx hy, if_pos hat]
  · rw [State.pixel_markPixel hgrid ch p hx hy, if_neg hat]
  · omega
  · rfl

/-- A character marks at most the byte under the cursor, 'X' in ANDM and '+' in ORM (R79). -/
theorem State.byte_markPixel_other {s : State} {ch a : Nat}
    (ha : ¬ ((ch = 0x58 ∧ a = Plane.andm.base + s.cursorIndex) ∨ (ch = 0x2B ∧ a = Plane.orm.base + s.cursorIndex))) :
    (s.markPixel ch).byte a = s.byte a := by
  unfold State.markPixel
  split_ifs with hcross hplus
  · rw [State.byte_setPlaneByte, if_neg fun h => ha (.inl ⟨hcross, h⟩)]
  · rw [State.byte_setPlaneByte, if_neg fun h => ha (.inr ⟨hplus, h⟩)]
  · rfl

theorem State.maskChar_cursor (s : State) {ch : Nat} (hch : ch ≠ 0x0A) :
    (s.maskChar ch).mcRow = s.mcRow ∧ (s.maskChar ch).mcCol = min (s.mcCol + 1) 128 := by
  rw [State.maskChar_eq hch]
  exact ⟨rfl, rfl⟩

/-- Settles O28, the pixels by `Plane.marked`. -/
theorem maskCharacterMarksThePixelUnderTheCursor : Obligations.MaskCharacterMarksThePixelUnderTheCursor := by
  intro ch s hch
  refine ⟨(s.maskChar ch).finish .ok, rfl, rfl, ?_, fun p x y hx hy => ?_, fun a ha => ?_⟩
  · rw [State.finish_ok, State.maskChar_eq hch]
    rfl
  · rw [State.finish_pixel, State.pixel_maskChar hch p hx hy]
    by_cases hat : x = s.mcCol ∧ y = s.mcRow
    · simp only [hat, Plane.marked, Option.some.injEq, and_self, true_and, if_true]
    · rw [if_neg hat, if_neg fun h => hat h.1, if_neg fun h => hat h.1]
  · rw [State.finish_byte]
    unfold State.maskChar
    rw [if_neg hch, State.setCursor_byte]
    split_ifs with hgrid
    · exact State.byte_markPixel_other fun h => ha ⟨hgrid, h⟩
    · rfl

/-! ## A whole text (R77) -/

theorem textChar_lineEnd (rest : List Nat) (row col : Nat) :
    textChar (0x0A :: rest) row col = if row = 0 then none else textChar rest (row - 1) col := if_pos rfl

theorem textChar_character {ch : Nat} (hch : ch ≠ 0x0A) (rest : List Nat) (row col : Nat) :
    textChar (ch :: rest) row col =
      if row = 0 then (if col = 0 then some ch else textChar rest 0 (col - 1)) else textChar rest row col := if_neg hch

/-- The character that falls on pixel (x, y) when the text is applied from a cursor at row `row`, column `col`. -/
def textCharFrom (text : List Nat) (row col x y : Nat) : Option Nat :=
  if y = row ∧ col ≤ x then textChar text 0 (x - col) else if row < y then textChar text (y - row) x else none

theorem textCharFrom_nil (row col x y : Nat) : textCharFrom [] row col x y = none := by
  unfold textCharFrom
  split_ifs <;> rfl

/-- No character falls on a pixel that the cursor has passed. -/
theorem textCharFrom_passed {row col x y : Nat} (h : y < row ∨ y = row ∧ x < col) (text : List Nat) :
    textCharFrom text row col x y = none := by
  unfold textCharFrom
  rw [if_neg (by omega), if_neg (by omega)]

theorem textCharFrom_sameRow {col x : Nat} (h : col ≤ x) (text : List Nat) (row : Nat) :
    textCharFrom text row col x row = textChar text 0 (x - col) := if_pos ⟨rfl, h⟩

theorem textCharFrom_laterRow {row y : Nat} (h : row < y) (text : List Nat) (col x : Nat) :
    textCharFrom text row col x y = textChar text (y - row) x := by
  unfold textCharFrom
  rw [if_neg (by omega), if_pos h]

theorem textCharFrom_columnZero {row y : Nat} (h : row ≤ y) (text : List Nat) (x : Nat) :
    textCharFrom text row 0 x y = textChar text (y - row) x := by
  rcases h.eq_or_lt with rfl | hlt
  · rw [textCharFrom_sameRow (Nat.zero_le x), Nat.sub_self, Nat.sub_zero]
  · exact textCharFrom_laterRow hlt text 0 x

/-- After a line end the text goes on at the next row; at row 64 no pixel is left. -/
theorem textCharFrom_lineEnd (rest : List Nat) (row col x : Nat) {y : Nat} (hy : y < 64) :
    textCharFrom (0x0A :: rest) row col x y = textCharFrom rest (min (row + 1) 64) 0 x y := by
  rcases Nat.lt_trichotomy y row with hlt | rfl | hgt
  · rw [textCharFrom_passed (.inl hlt), textCharFrom_passed (.inl (by omega))]
  · rw [textCharFrom_passed (text := rest) (.inl (by omega))]
    by_cases hcol : col ≤ x
    · rw [textCharFrom_sameRow hcol, textChar_lineEnd, if_pos rfl]
    · rw [textCharFrom_passed (.inr ⟨rfl, by omega⟩)]
  · rw [textCharFrom_laterRow hgt, textChar_lineEnd, if_neg (by omega), textCharFrom_columnZero (by omega)]
    congr 1
    omega

/-- A character falls on the pixel under the cursor, and the text goes on at the next column; at column 128 no pixel of the row is left. -/
theorem textCharFrom_character {ch : Nat} (hch : ch ≠ 0x0A) (rest : List Nat) (row col : Nat) {x : Nat} (hx : x < 128) (y : Nat) :
    textCharFrom (ch :: rest) row col x y =
      if x = col ∧ y = row then some ch else textCharFrom rest row (min (col + 1) 128) x y := by
  rcases Nat.lt_trichotomy y row with hlt | rfl | hgt
  · rw [textCharFrom_passed (.inl hlt), textCharFrom_passed (.inl hlt), if_neg (by omega)]
  · rcases Nat.lt_trichotomy x col with hleft | rfl | hright
    · rw [textCharFrom_passed (.inr ⟨rfl, hleft⟩), textCharFrom_passed (.inr ⟨rfl, by omega⟩), if_neg (by omega)]
    · rw [textCharFrom_sameRow le_rfl, textChar_character hch, if_pos rfl, Nat.sub_self, if_pos rfl, if_pos ⟨rfl, rfl⟩]
    · rw [textCharFrom_sameRow hright.le, textChar_character hch, if_pos rfl, if_neg (by omega), if_neg (by omega),
        textCharFrom_sameRow (by omega)]
      congr 1
      omega
  · rw [textCharFrom_laterRow hgt, textCharFrom_laterRow hgt, textChar_character hch, if_neg (by omega), if_neg (by omega)]

/-- A text marks every pixel of every plane by the character that falls on it. -/
theorem execAll_maskchars (text : List Nat) (s : State) : ∃ u, execAll (text.map .maskchar) s = .next u ∧
    ∀ (p : Plane) (x y : Nat), x < 128 → y < 64 →
      u.pixel p x y = p.marked (textCharFrom text s.mcRow s.mcCol x y) (s.pixel p x y) := by
  induction text generalizing s with
  | nil => exact ⟨s, rfl, fun p x y _ _ => by rw [textCharFrom_nil, Plane.marked_none]⟩
  | cons ch rest ih =>
    obtain ⟨u, hu, hpixel⟩ := ih ((s.maskChar ch).finish .ok)
    refine ⟨u, hu, fun p x y hx hy => (hpixel p x y hx hy).trans ?_⟩
    rw [State.finish_pixel, State.finish_mcRow, State.finish_mcCol]
    by_cases hend : ch = 0x0A
    · subst hend
      rw [textCharFrom_lineEnd rest _ _ _ hy, State.maskChar_lineEnd]
      rfl
    · obtain ⟨hrow, hcol⟩ := s.maskChar_cursor hend
      rw [hrow, hcol, State.pixel_maskChar hend p hx hy, textCharFrom_character hend rest _ _ hx]
      split_ifs with hat
      · rw [textCharFrom_passed (.inr ⟨hat.2, by omega⟩), Plane.marked_none]
      · rfl

/-- Two states with the same pixels in a plane have the same bytes in it. -/
theorem State.planeByte_eq_of_pixels {s t : State} {p : Plane} (h : ∀ x y, x < 128 → y < 64 → s.pixel p x y = t.pixel p x y) {i : Nat}
    (hi : i < 1024) : s.planeByte p i = t.planeByte p i := by
  apply BitVec.eq_of_getLsbD_eq
  intro b hb
  have hpixel := h (i % 128) (i / 128 * 8 + b) (by omega) (by omega)
  have hindex : (i / 128 * 8 + b) / 8 * 128 + i % 128 = i := by omega
  have hbit : (i / 128 * 8 + b) % 8 = b := by omega
  unfold State.pixel at hpixel
  rwa [hindex, hbit] at hpixel

/-- MASKINIT and then a text mark every pixel of the default masks by the character of the text that is at its place. -/
theorem execAll_maskinit_maskchars (text : List Nat) (s : State) : ∃ u, execAll (.maskinit :: text.map .maskchar) s = .next u ∧
    ∀ (p : Plane) (x y : Nat), x < 128 → y < 64 → u.pixel p x y = p.marked (textChar text y x) (s.loadMasks.pixel p x y) := by
  obtain ⟨u, hu, hpixel⟩ := execAll_maskchars text ((s.loadMasks.setCursor 0 0).finish .ok)
  refine ⟨u, hu, fun p x y hx hy => (hpixel p x y hx hy).trans ?_⟩
  simp only [State.finish_mcRow, State.finish_mcCol, State.setCursor_mcRow, State.setCursor_mcCol, State.finish_pixel,
    State.setCursor_pixel, textCharFrom_columnZero (Nat.zero_le y), Nat.sub_zero]

/-- Settles O29: after MASKINIT the text is applied from row 0, column 0; FB and OUT have no mark. -/
theorem maskTextIsAppliedLineByLine : Obligations.MaskTextIsAppliedLineByLine := by
  intro text s
  obtain ⟨u, hu, hpixel⟩ := execAll_maskinit_maskchars text s
  have hkept : ∀ p : Plane, p ≠ .andm → p ≠ .orm → ∀ i, i < 1024 → u.planeByte p i = s.planeByte p i := by
    intro p handm horm i hi
    refine State.planeByte_eq_of_pixels (fun x y hx hy => ?_) hi
    rw [hpixel p x y hx hy, Plane.marked_unmasked handm horm, State.pixel_loadMasks s p hx hy, if_neg horm, if_neg handm]
  refine ⟨u, hu, fun x y hx hy => ⟨?_, ?_⟩, fun i hi => ⟨hkept .fb (by decide) (by decide) i hi, hkept .out (by decide) (by decide) i hi⟩⟩
  · rw [hpixel .andm x y hx hy, Plane.marked_andm, State.pixel_loadMasks s .andm hx hy]
    rfl
  · rw [hpixel .orm x y hx hy, Plane.marked_orm, State.pixel_loadMasks s .orm hx hy]
    rfl

end Sys2Proof.Machine
end

section
/-! SUPPORT. COLOR12 and ENCODE (43_ws2812.md R82 to R89): what each store puts into the colours and the LED buffer, which lie
apart; and from the frame's bytes the bits on the wire (R90, R91). -/

namespace Sys2Proof.Machine

/-! ## COLOR12 (R82) -/

theorem State.finish_ok_err (s : State) : (s.finish .ok).err = s.err := by rw [State.finish_ok]

/-- A colour of three digits as a number, each digit doubled. -/
theorem hex3to6_toNat (v : BitVec 12) :
    (hex3to6 v).toNat = 0x110000 * (v.toNat / 256 % 16) + 0x1100 * (v.toNat / 16 % 16) + 0x11 * (v.toNat % 16) := by
  unfold hex3to6
  simp only [toNat_append_eq_add, BitVec.extractLsb'_toNat, Nat.shiftRight_eq_div_pow]
  omega

theorem State.rgb12_doubled_toNat (s : State) :
    (hex3to6 s.rgb12).toNat =
      0x110000 * (s.unsignedArg 1 / 256 % 16) + 0x1100 * (s.unsignedArg 1 / 16 % 16) + 0x11 * (s.unsignedArg 1 % 16) := by
  rw [hex3to6_toNat, State.rgb12_toNat, State.unsignedArg_1]
  omega

/-- Settles O31, by the range check of the index; in range it is one store of one entry. -/
theorem color12DoublesTheDigits : Obligations.Color12DoublesTheDigits := by
  intro s
  refine ⟨fun hout => ?_, fun hin => ?_⟩
  · rw [← State.finish_errRange, ← State.storeColor12_errRange hout]
    rfl
  · refine ⟨_, congrArg Host.Outcome.next (State.storeColor12_ok hin), rfl, State.finish_ok_err _, rfl, ?_, fun a ha => ?_⟩
    · rw [State.finish_color, State.color_storeColors, if_pos (by omega), State.rgb12_doubled_toNat]
    · rw [State.finish_byte, State.byte_storeColors, if_neg ha]

/-! ## The code table (R84) -/

/-- The nibble that stands for one data bit: 0x6 for 1, 0x2 for 0 (R84). -/
def codeNibble (b : Bool) : BitVec 4 := if b then 0x6#4 else 0x2#4

theorem codeByte_nibble (v : BitVec 2) {b : Nat} (hb : b < 2) : (codeByte v).extractLsb' (4 * b) 4 = codeNibble (v.getLsbD b) := by
  revert v b
  decide

/-- Settles O32: the high nibble is number 1 and the low nibble number 0. -/
theorem codeBytesSpellTheGroupBits : Obligations.CodeBytesSpellTheGroupBits :=
  ⟨⟨rfl, rfl, rfl, rfl⟩, fun v => ⟨codeByte_nibble v (b := 1) (by decide), codeByte_nibble v (b := 0) (by decide)⟩⟩

/-! ## The cyclic fill (R86) -/

theorem State.color_fillColors (s : State) (count supplied j : Nat) :
    (s.fillColors count supplied).color j = if supplied ≤ j ∧ j < count then s.color (j % supplied) else s.color j := by
  unfold State.fillColors
  rw [State.color_storeColors]
  exact if_congr (by omega) rfl rfl

theorem State.byte_fillColors_outside (s : State) {count supplied a : Nat}
    (ha : ¬ (colorBase + 4 * supplied ≤ a ∧ a < colorBase + 4 * count)) : (s.fillColors count supplied).byte a = s.byte a := by
  unfold State.fillColors
  rw [State.byte_storeColors, if_neg (by omega)]

/-- The colour RAM ends below the LED buffer (20_memory.md R27). -/
theorem colorEnd_le_ledBase (c : Config) : colorBase + 4 * c.maxLeds ≤ ledBase := by
  have hmax := c.maxLeds_le
  unfold colorBase ledBase
  omega

theorem State.ledByte_fillColors (s : State) {count : Nat} (hcount : count ≤ s.cfg.maxLeds) (supplied k : Nat) :
    (s.fillColors count supplied).ledByte k = s.ledByte k := by
  have hend := colorEnd_le_ledBase s.cfg
  exact s.byte_fillColors_outside (by omega)

/-! ## The frame (R87) -/

theorem State.ledByte_storeFrame (s : State) (count k : Nat) :
    (s.storeFrame count).ledByte k = if k < 12 * count + 8 then frameByte count s.color k else s.ledByte k :=
  s.ledByte_storeLed ..

theorem State.byte_storeFrame_outside (s : State) {count a : Nat} (ha : ¬ (ledBase ≤ a ∧ a < ledBase + (12 * count + 8))) :
    (s.storeFrame count).byte a = s.byte a :=
  (s.byte_storeLed _ _ a).trans (if_neg ha)

theorem State.color_storeFrame (s : State) (count : Nat) {j : Nat} (hj : j < s.cfg.maxLeds) :
    (s.storeFrame count).color j = s.color j := by
  have hend := colorEnd_le_ledBase s.cfg
  exact State.color_congr fun a _ _ => s.byte_storeFrame_outside (by omega)

/-- The four bytes at each end of a frame are zero. -/
theorem frameByte_end {count k : Nat} (color : Nat → Color) (hk : k < 4 ∨ 12 * count + 4 ≤ k) : frameByte count color k = 0x00#8 :=
  if_pos hk

/-- Byte `k` of the twelve of LED `i` is the code byte of its group `k`. -/
theorem frameByte_led {count i k : Nat} (color : Nat → Color) (hi : i < count) (hk : k < 12) :
    frameByte count color (4 + 12 * i + k) = codeByte (wireGroup (wireWord (color i)) k) := by
  have hled : (4 + 12 * i + k - 4) / 12 = i := by omega
  have hgroup : (4 + 12 * i + k - 4) % 12 = k := by omega
  unfold frameByte
  rw [if_neg (by omega), hled, hgroup]

/-! ## ENCODE by the outcome of its checks (R89) -/

/-- The fill, then the frame: what ENCODE stores when both checks pass. -/
def State.encoded (s : State) : State := (s.fillColors (s.unsignedArg 0) (s.unsignedArg 1)).storeFrame (s.unsignedArg 0)

theorem exec_encode_ok {s : State} (hcount : s.unsignedArg 0 ≤ s.cfg.maxLeds) (hsupplied : s.unsignedArg 0 = 0 ∨ 0 < s.unsignedArg 1) :
    exec .encode s = .next (s.encoded.finish .ok) :=
  congrArg Host.Outcome.next (State.encodeLeds_ok hcount hsupplied)

/-- ENCODE's three ends, with the checks in their order (R89, 60_exceptions.md R97). -/
theorem State.encodeLeds_cases (s : State) :
    (s.cfg.maxLeds < s.unsignedArg 0 ∧ s.encodeLeds = s.finish .errRange) ∨
    (s.unsignedArg 0 ≤ s.cfg.maxLeds ∧ s.encodeLeds = s.finish .errNocolor) ∨
    (s.unsignedArg 0 ≤ s.cfg.maxLeds ∧ s.encodeLeds = s.encoded.finish .ok) := by
  rcases Nat.lt_or_ge s.cfg.maxLeds (s.unsignedArg 0) with hrange | hcount
  · exact .inl ⟨hrange, State.encodeLeds_errRange hrange⟩
  · by_cases hnone : 0 < s.unsignedArg 0 ∧ s.unsignedArg 1 = 0
    · exact .inr (.inl ⟨hcount, State.encodeLeds_errNocolor hcount hnone.1 hnone.2⟩)
    · exact .inr (.inr ⟨hcount, State.encodeLeds_ok hcount (by omega)⟩)

/-! ## What ENCODE leaves in the colours, the LED buffer and LEDLEN -/

/-- After ENCODE the colours of the colour RAM are those of the fill. -/
theorem State.color_encoded (s : State) {j : Nat} (hj : j < s.cfg.maxLeds) :
    s.encoded.color j =
      if s.unsignedArg 1 ≤ j ∧ j < s.unsignedArg 0 then s.color (j % s.unsignedArg 1) else s.color j := by
  unfold State.encoded
  rw [State.color_storeFrame (s.fillColors _ _) _ hj, State.color_fillColors]

/-- The frame is made of the colours as they stand after ENCODE. -/
theorem State.ledByte_encoded_led {s : State} (hcount : s.unsignedArg 0 ≤ s.cfg.maxLeds) {i k : Nat} (hi : i < s.unsignedArg 0)
    (hk : k < 12) : s.encoded.ledByte (4 + 12 * i + k) = codeByte (wireGroup (wireWord (s.encoded.color i)) k) := by
  have hcolor : s.encoded.color i = (s.fillColors (s.unsignedArg 0) (s.unsignedArg 1)).color i :=
    State.color_storeFrame _ _ (Nat.lt_of_lt_of_le hi hcount)
  rw [hcolor, ← frameByte_led _ hi hk]
  exact (State.ledByte_storeFrame ..).trans (if_pos (by omega))

theorem State.ledByte_encoded_end (s : State) {k : Nat} (hk : k < 4 ∨ 12 * s.unsignedArg 0 + 4 ≤ k)
    (hin : k < 12 * s.unsignedArg 0 + 8) : s.encoded.ledByte k = 0x00#8 :=
  (State.ledByte_storeFrame ..).trans ((if_pos hin).trans (frameByte_end _ hk))

theorem State.ledByte_encoded_beyond {s : State} (hcount : s.unsignedArg 0 ≤ s.cfg.maxLeds) {k : Nat}
    (hk : 12 * s.unsignedArg 0 + 8 ≤ k) : s.encoded.ledByte k = s.ledByte k :=
  (State.ledByte_storeFrame ..).trans ((if_neg (Nat.not_lt.2 hk)).trans (s.ledByte_fillColors hcount _ k))

theorem State.byte_encoded_outside (s : State) {a : Nat} (hframe : ¬ (ledBase ≤ a ∧ a < ledBase + (12 * s.unsignedArg 0 + 8)))
    (hfill : ¬ (colorBase + 4 * s.unsignedArg 1 ≤ a ∧ a < colorBase + 4 * s.unsignedArg 0)) : s.encoded.byte a = s.byte a :=
  (State.byte_storeFrame_outside _ hframe).trans (s.byte_fillColors_outside hfill)

/-- The longest frame, 12·2047 + 8 bytes, fits the 16 bits of LEDLEN. -/
theorem State.ledlen_encoded_toNat {s : State} (hcount : s.unsignedArg 0 ≤ s.cfg.maxLeds) :
    s.encoded.ledlen.toNat = 12 * s.unsignedArg 0 + 8 := by
  have hmax := s.cfg.maxLeds_le
  exact (BitVec.toNat_ofNat ..).trans (Nat.mod_eq_of_lt (by omega))

/-! ## The statements about ENCODE -/

/-- Settles O33: the no-colour check, and the fill, which the frame's store does not reach. -/
theorem encodeFillsTheColoursCyclically : Obligations.EncodeFillsTheColoursCyclically := by
  intro s hcount
  refine ⟨fun hpos hnone => ?_, fun hsupplied => ⟨_, exec_encode_ok hcount hsupplied, rfl, fun j hj => ?_, fun j hj hfill => ?_⟩⟩
  · rw [← State.finish_errNocolor, ← State.encodeLeds_errNocolor hcount hpos hnone]
    rfl
  · exact (s.color_encoded (by omega)).trans (if_pos hj)
  · exact (s.color_encoded hj).trans (if_neg hfill)

/-- Settles O34, by the three parts of the LED buffer: the ends, the code bytes, and what lies beyond the frame. -/
theorem encodeLaysOutTheFrame : Obligations.EncodeLaysOutTheFrame := by
  intro s hcount hsupplied
  refine ⟨_, exec_encode_ok hcount hsupplied, rfl, fun k hk => ⟨?_, ?_⟩, fun i k hi hk => ?_, fun k hk => ?_⟩
  · exact s.ledByte_encoded_end (by omega) (by omega)
  · exact s.ledByte_encoded_end (by omega) (by omega)
  · exact State.ledByte_encoded_led hcount hi hk
  · exact State.ledByte_encoded_beyond hcount hk

/-- Settles O35: a failed ENCODE is a finish and nothing else. -/
theorem encodeSetsTheFrameLength : Obligations.EncodeSetsTheFrameLength := by
  intro s
  refine ⟨s.encodeLeds, rfl, fun hok => ?_, fun hfailed => ?_, fun hrange => ?_⟩
  · rcases s.encodeLeds_cases with ⟨-, h⟩ | ⟨-, h⟩ | ⟨hcount, h⟩ <;> rw [h] at hok ⊢
    · cases hok
    · cases hok
    · have hlen := State.ledlen_encoded_toNat hcount
      exact ⟨hlen, (State.ledlenWord_toNat _).trans hlen⟩
  · rw [s.onlyFinishedUnlessOk_encodeLeds hfailed, State.finish_ledlen]
  · rw [State.encodeLeds_errRange hrange, State.finish_errRange]

/-- Settles O36: only a successful ENCODE stores, and it stores the fill and the frame. -/
theorem encodeFrame : Obligations.EncodeFrame := by
  intro s
  refine ⟨s.encodeLeds, rfl, ?_, fun a hframe hfill => ?_, fun hfailed => ?_⟩
  · rcases s.encodeLeds_cases with ⟨-, h⟩ | ⟨-, h⟩ | ⟨-, h⟩ <;> rw [h] <;> rfl
  · rcases s.encodeLeds_cases with ⟨-, h⟩ | ⟨-, h⟩ | ⟨-, h⟩ <;> rw [h, State.finish_byte]
    exact s.byte_encoded_outside hframe hfill
  · rw [s.onlyFinishedUnlessOk_encodeLeds hfailed, State.finish_mem]

/-! ## The bits on the wire (R90, R91) -/

theorem codeNibble_getLsbD (b : Bool) :
    (codeNibble b).getLsbD 3 = false ∧ (codeNibble b).getLsbD 2 = b ∧ (codeNibble b).getLsbD 1 = true ∧
      (codeNibble b).getLsbD 0 = false := by
  cases b <;> decide

theorem State.wireBit_of_zero {s : State} {n : Nat} (h : s.ledByte (n / 8) = 0x00#8) : s.wireBit n = false := by
  unfold State.wireBit
  rw [h, BitVec.getLsbD_zero]

/-- Bit-time `r` of the four that a data bit takes is bit 3 − `r` of its nibble; an even data bit has the high nibble of its code byte. -/
theorem State.wireBit_dataBitTime {s : State} {i j : Nat} {w : Color} (hj : j < 24)
    (hbyte : s.ledByte (4 + 12 * i + j / 2) = codeByte (wireGroup w (j / 2))) {r : Nat} (hr : r < 4) :
    s.wireBit (dataBitTime i j + r) = (codeNibble (w.getLsbD (23 - j))).getLsbD (3 - r) := by
  have hindex : (dataBitTime i j + r) / 8 = 4 + 12 * i + j / 2 := by
    unfold dataBitTime
    omega
  have hplace : 7 - (dataBitTime i j + r) % 8 = 4 * (1 - j % 2) + (3 - r) := by
    unfold dataBitTime
    omega
  have hbit : (wireGroup w (j / 2)).getLsbD (1 - j % 2) = w.getLsbD (23 - j) := by
    have hpos : 22 - 2 * (j / 2) + (1 - j % 2) = 23 - j := by omega
    unfold wireGroup
    rw [BitVec.getLsbD_extractLsb', hpos, decide_eq_true (by omega), Bool.true_and]
  unfold State.wireBit
  rw [hindex, hplace, hbyte, ← hbit, ← codeByte_nibble _ (by omega), BitVec.getLsbD_extractLsb', decide_eq_true (by omega),
    Bool.true_and]

/-- Green leaves first, then red, then blue (R83). -/
theorem wireWord_getLsbD (c : Color) {j : Nat} (hj : j < 8) :
    (wireWord c).getLsbD (23 - j) = c.getLsbD (15 - j) ∧ (wireWord c).getLsbD (15 - j) = c.getLsbD (23 - j) ∧
      (wireWord c).getLsbD (7 - j) = c.getLsbD (7 - j) := by
  unfold wireWord
  simp only [BitVec.getLsbD_append, BitVec.getLsbD_extractLsb']
  refine ⟨?_, ?_, ?_⟩
  · rw [if_neg (by omega), if_neg (by omega), decide_eq_true (by omega), Bool.true_and]
    congr 1
    omega
  · rw [if_neg (by omega), if_pos (by omega), decide_eq_true (by omega), Bool.true_and]
    congr 1
    omega
  · rw [if_pos (by omega), decide_eq_true (by omega), Bool.true_and, Nat.zero_add]

theorem wireNanoseconds_of_spiHz {c : Config} (h : c.spiHz = 3125000) (n : Nat) : wireNanoseconds c n = 320 * n := by
  unfold wireNanoseconds
  rw [h]
  omega

/-- Settles O37: the frame's bytes are those of O34 and their number that of O35; a code byte on the wire is the four bit-times of two data
bits. -/
theorem wireCarriesTheColours : Obligations.WireCarriesTheColours := by
  refine ⟨fun s hcount hsupplied => ⟨_, exec_encode_ok hcount hsupplied, ?_, fun n hn => ⟨?_, ?_⟩, fun i j hi hj => ?_⟩,
    fun c j hj => wireWord_getLsbD c hj, fun c h => ?_⟩
  · unfold State.wireLength
    rw [State.finish_ledlen, State.ledlen_encoded_toNat hcount]
    omega
  · exact State.wireBit_of_zero (s.ledByte_encoded_end (by omega) (by omega))
  · exact State.wireBit_of_zero (s.ledByte_encoded_end (by omega) (by omega))
  · have hbit : ∀ r, r < 4 → (s.encoded.finish .ok).wireBit (dataBitTime i j + r) =
        (codeNibble ((wireWord (s.encoded.color i)).getLsbD (23 - j))).getLsbD (3 - r) := fun r =>
      State.wireBit_dataBitTime hj (State.ledByte_encoded_led hcount hi (by omega))
    obtain ⟨h3, h2, h1, h0⟩ := codeNibble_getLsbD ((wireWord (s.encoded.color i)).getLsbD (23 - j))
    exact ⟨(hbit 0 (by decide)).trans h3, (hbit 1 (by decide)).trans h2, (hbit 2 (by decide)).trans h1, (hbit 3 (by decide)).trans h0⟩
  · simp only [wireNanoseconds_of_spiHz h, highBitTimes]
    decide

end Sys2Proof.Machine
end

section
/-! SUPPORT. The result codes (60_exceptions.md R94): which one each command ends with, when FILL, ERASE, COPY and GLYPH are rejected (R95), and that
ERR is sticky (R96). -/

namespace Sys2Proof.Machine

/-! ## The code of each command that checks its operands -/

theorem State.rectArgs_eq_none_iff (s : State) : s.rectArgs = none ↔ rectOutside s := rectClip_eq_none_iff

theorem State.drawRect_resultCode (t : Target) (op : Byte → Byte → Byte) (s : State) :
    (s.drawRect t op).result = if rectOutside s then .rejected else .ok := by
  rw [← if_congr s.rectArgs_eq_none_iff rfl rfl]
  cases hr : s.rectArgs with
  | none => rw [State.drawRect_none hr, State.finish_result, if_pos rfl]
  | some r => rw [State.drawRect_result hr, if_neg (Option.some_ne_none r)]

/-- Masking the low three bits before the shift to a stripe number drops nothing that the shift keeps (41_blit.md R65). -/
theorem stripeOf_eq_ediv (y : Int) : stripeOf y = y / 8 := Int.mul_ediv_cancel_left _ (by decide)

theorem State.copyArgs_eq_none_iff (s : State) : s.copyArgs = none ↔ copySourceEmpty s := by
  simp only [State.copyArgs, copyClip_eq_none_iff, stripeOf_eq_ediv]

theorem State.copyRect_resultCode (t : Target) (s : State) :
    (s.copyRect t).result = if copySourceEmpty s then .rejected else .ok := by
  rw [← if_congr s.copyArgs_eq_none_iff rfl rfl]
  cases hw : s.copyArgs with
  | none => rw [State.copyRect_none hw, State.finish_result, if_pos rfl]
  | some w => rw [State.copyRect_some hw, State.finish_result, if_neg (Option.some_ne_none w)]

theorem glyphDoesNotFit_iff (size : Nat) (s : State) :
    glyphDoesNotFit size s ↔ ¬ glyphFits s.cfg size (s.signedArg 0) (s.signedArg 1) = true := by
  rw [glyphFits_iff]
  omega

theorem State.drawGlyph_resultCode (t : Target) (size ch : Nat) (s : State) :
    (s.drawGlyph t size ch).result = if glyphDoesNotFit size s then .rejected else .ok := by
  rw [if_congr (glyphDoesNotFit_iff size s) rfl rfl]
  by_cases hfits : glyphFits s.cfg size (s.signedArg 0) (s.signedArg 1) = true
  · rw [State.drawGlyph_fits hfits, State.finish_result, if_neg (not_not_intro hfits)]
  · rw [State.drawGlyph_not hfits, State.finish_result, if_pos hfits]

theorem State.storeColor12_resultCode (s : State) :
    s.storeColor12.result = if s.cfg.maxLeds ≤ s.unsignedArg 0 then .errRange else .ok := by
  unfold State.storeColor12
  split_ifs <;> rfl

theorem State.encodeLeds_resultCode (s : State) :
    s.encodeLeds.result =
      if s.cfg.maxLeds < s.unsignedArg 0 then .errRange
      else if 0 < s.unsignedArg 0 ∧ s.unsignedArg 1 = 0 then .errNocolor else .ok := by
  unfold State.encodeLeds
  split_ifs <;> rfl

/-! ## The code of every command -/

/-- A command that answers has its own code in RESULT (R94). -/
theorem exec_result {i : Instr} {s u : State} (h : exec i s = .next u) : u.result = resultCodeOf i s := by
  cases i <;> cases h
  case fill t | erase t => exact s.drawRect_resultCode t _
  case copy t => exact s.copyRect_resultCode t
  case glyph t size c => exact s.drawGlyph_resultCode t size c
  case color12 => exact s.storeColor12_resultCode
  case encode => exact s.encodeLeds_resultCode
  all_goals rfl

/-- The code depends on the parameters and the operand registers only. -/
theorem resultCodeOf_congr {s t : State} (hcfg : s.cfg = t.cfg) (hargs : s.args = t.args) (i : Instr) :
    resultCodeOf i s = resultCodeOf i t := by
  cases s
  cases t
  cases hcfg
  cases hargs
  cases i <;> rfl

theorem resultCodeOf_ne_errIllegal (i : Instr) (s : State) : resultCodeOf i s ≠ .errIllegal := by
  cases i with
  | nop | composite | maskinit | maskchar ch => exact nofun
  | _ =>
    simp only [resultCodeOf]
    split_ifs <;> exact nofun

/-- A command whose only other code than OK is REJECTED is rejected exactly under that code's condition, and is then a finish and nothing
else. -/
theorem exec_rejected_iff {i : Instr} {s : State} {p : Prop} [Decidable p] (h : resultCodeOf i s = if p then .rejected else .ok) :
    ∃ u, exec i s = .next u ∧ (u.result = .rejected ↔ p) ∧ (u.result = .rejected → u = { s with result := .rejected }) := by
  obtain ⟨u, hexec, hfinished⟩ := commandNotOkChangesStatusOnly i s
  refine ⟨u, hexec, ?_, fun hr => ?_⟩
  · rw [exec_result hexec, h, ite_eq_left_iff, imp_iff_not nofun, not_not]
  · rw [← State.finish_rejected, ← hr]
    exact hfinished (hr ▸ nofun)

/-- Settles O18: the condition of each of the four commands is the one its code has. -/
theorem rejectionConditions : Obligations.RejectionConditions := by
  intro t s
  refine ⟨fun i hi => ?_, exec_rejected_iff rfl, fun size c => exec_rejected_iff rfl⟩
  simp only [List.mem_cons, List.not_mem_nil, or_false] at hi
  rcases hi with rfl | rfl <;> exact exec_rejected_iff rfl

/-! ## The code of every CMD write -/

theorem resultCodeOfWord_of_ok {w : Word} {i : Instr} (h : decode w = .ok i) (s : State) : resultCodeOfWord w s = resultCodeOf i s := by
  unfold resultCodeOfWord
  rw [h]

theorem resultCodeOfWord_of_error {w : Word} {e : DecodeError} (h : decode w = .error e) (s : State) :
    resultCodeOfWord w s = .errIllegal := by
  unfold resultCodeOfWord
  rw [h]

theorem resultCodeOfWord_congr {s t : State} (hcfg : s.cfg = t.cfg) (hargs : s.args = t.args) (w : Word) :
    resultCodeOfWord w s = resultCodeOfWord w t := by
  unfold resultCodeOfWord
  cases decode w with
  | ok i => exact resultCodeOf_congr hcfg hargs i
  | error e => rfl

/-- No legal command answers ERR_ILLEGAL (R94). -/
theorem resultCodeOfWord_eq_errIllegal_iff (w : Word) (s : State) :
    resultCodeOfWord w s = .errIllegal ↔ ∃ e, decode w = .error e := by
  cases hd : decode w with
  | ok i => exact iff_of_false (resultCodeOfWord_of_ok hd s ▸ resultCodeOf_ne_errIllegal i s) nofun
  | error e => exact iff_of_true (resultCodeOfWord_of_error hd s) ⟨e, rfl⟩

/-- A CMD write ends with the code of its word, and with a code other than OK it writes CMD and STATUS only (R94). -/
theorem commandCycle_resultCode (w : Word) (s : State) :
    ∃ u, commandCycle w s = .next u ∧ u.result = resultCodeOfWord w s ∧ (u.result ≠ .ok → u = (s.setCmd w).finish u.result) := by
  cases hd : decode w with
  | ok i =>
    obtain ⟨u, hexec, hfinished⟩ := commandNotOkChangesStatusOnly i (s.setCmd w)
    refine ⟨u, (commandCycle_of_ok hd s).trans hexec, ?_, hfinished⟩
    rw [exec_result hexec, resultCodeOfWord_of_ok hd]
    exact resultCodeOf_congr rfl rfl i
  | error e => exact ⟨_, commandCycle_illegal hd s, (resultCodeOfWord_of_error hd s).symm, fun _ => rfl⟩

/-- Settles O10: the numbers code by code, each command's code, and the code of each word. -/
theorem resultCodesOfEachCommand : Obligations.ResultCodesOfEachCommand := by
  refine ⟨⟨rfl, rfl, rfl, rfl, rfl⟩, fun code => by cases code <;> decide, fun i s => ?_, fun w s => ?_⟩
  · obtain ⟨u, hexec, -⟩ := commandNotOkChangesStatusOnly i s
    exact ⟨u, hexec, exec_result hexec⟩
  · obtain ⟨u, hcycle, hresult, hfinished⟩ := commandCycle_resultCode w s
    exact ⟨u, hcycle, hresult, hresult ▸ resultCodeOfWord_eq_errIllegal_iff w s, hfinished⟩

/-! ## ERR is sticky (R96) -/

/-- The one finish of a CMD write is by the code of its word, with ERR as it was before the write. -/
theorem commandCycle_finish (w : Word) (s : State) :
    ∃ v : State, commandCycle w s = .next (v.finish (resultCodeOfWord w s)) ∧ v.err = s.err := by
  obtain ⟨v, code, hcycle, -, herr⟩ := finishSetsErrFromTheCode.2 w s
  obtain ⟨u, hu, hresult, -⟩ := commandCycle_resultCode w s
  cases hcycle.symm.trans hu
  exact ⟨v, hresult ▸ hcycle, herr⟩

theorem commandCycle_keeps_err {w : Word} {s t : State} (h : commandCycle w s = .next t) (herr : s.err = true) : t.err = true := by
  obtain ⟨v, hcycle, hv⟩ := commandCycle_finish w s
  cases hcycle.symm.trans h
  rw [State.finish_err, hv, herr, Bool.true_or]

/-- STATUS is one word of the map, and a write to it has 32 bits (20_memory.md R27, R29). -/
theorem writeAdmitted_status {c : Config} {off : BitVec 16} {w : Width} (hl : locate c off.toNat = .status)
    (ha : writeAdmitted c off w = true) : off = 0x0004 ∧ w = .b4 := by
  obtain ⟨haligned, hadmits⟩ := writeAdmitted_iff.1 ha
  obtain rfl : w = .b4 := Place.wide_of_admitsWrite (hl ▸ hadmits) rfl
  have hindex : ∀ n < 10, registerAt n = .status → n = 1 := by decide
  rcases locate_cases c off.toNat with ⟨hreg, h⟩ | ⟨p, -, h⟩ | ⟨-, h⟩ | ⟨-, h⟩ | ⟨-, h⟩
  case inl =>
    have hword := hindex _ (by omega) (h.symm.trans hl)
    have hfour : off.toNat % 4 = 0 := haligned
    exact ⟨BitVec.eq_of_toNat_eq (show off.toNat = 4 by omega), rfl⟩
  all_goals cases h.symm.trans hl

/-- Only a write of 1 to STATUS[8] is a host write that clears ERR (R96). -/
theorem hostWrite_clears_err {s t : State} {off : BitVec 16} {w : Width} {v : Word} (h : s.hostWrite off w v = .next t)
    (hs : s.err = true) (ht : t.err = false) : (off = 0x0004 ∧ w = .b4) ∧ v.getLsbD 8 = true := by
  have hkept : t.err ≠ s.err := by rw [hs, ht]; exact nofun
  rcases State.hostWrite_cases h with rfl | ⟨ha, ⟨-, hc⟩ | ⟨hl, rfl⟩ | ⟨n, -, rfl⟩ | ⟨p, -, -, rfl⟩ | ⟨-, rfl⟩⟩
  case inr.inl => exact absurd (ht.symm.trans (commandCycle_keeps_err hc hs)) nofun
  case inr.inr.inl =>
    rw [State.writeStatus_err, State.respond_err, hs, Bool.true_and, Bool.not_eq_false'] at ht
    exact ⟨writeAdmitted_status hl ha, ht⟩
  all_goals exact absurd rfl hkept

/-- Settles O51: the finish of a CMD write, the two ways ERR is cleared, and the cases of a step, none of which is a third way. -/
theorem errIsSticky : Obligations.ErrIsSticky := by
  refine ⟨fun w s before e => ?_, fun s rest v hp hv => ?_, fun s rest hp => ⟨_, step_resetPulse hp, rfl⟩, fun s t hstep hs ht => ?_⟩
  · obtain ⟨v, hcycle, herr⟩ := commandCycle_finish w { s with result := before, err := e }
    rw [resultCodeOfWord_congr (s := { s with result := before, err := e }) (t := s) rfl rfl w] at hcycle
    have hsets : ∀ code : BitVec 3, code ∈ [2, 3, 4] → 2 ≤ code.toNat := by decide
    have hkeeps : ∀ code : BitVec 3, code ∈ [0, 1] → code.toNat < 2 := by decide
    obtain ⟨hresult, hset, hkeep⟩ := finishSetsErrFromTheCode.1 (resultCodeOfWord w s) v
    exact ⟨_, hcycle, hresult, fun h => hset (hsets _ h), fun h => (hkeep (hkeeps _ h)).trans herr⟩
  · refine ⟨_, step_writeStatus hp, ?_⟩
    rw [State.writeStatus_err, hv, Bool.not_true, Bool.and_false]
  · have hkept : t.err ≠ s.err := by rw [hs, ht]; exact nofun
    rcases step_cases hstep with ⟨-, rfl⟩ | ⟨rest, off, w, r, -, rfl⟩ | ⟨rest, hp, -⟩ | ⟨rest, off, w, v, hp, hw⟩
    · exact absurd rfl hkept
    · exact absurd rfl hkept
    · exact ⟨_, rest, hp, .inl rfl⟩
    · obtain ⟨⟨rfl, rfl⟩, hv⟩ := hostWrite_clears_err hw hs ht
      exact ⟨_, rest, hp, .inr ⟨v, rfl, hv⟩⟩

end Sys2Proof.Machine
end

section
/-! SUPPORT. Which accesses the engine refuses (60_exceptions.md R93), and what becomes of them. -/

namespace Sys2Proof.Machine

/-! ## The conditions of R93 -/

theorem Width.bytes_eq_four_iff (w : Width) : w.bytes = 4 ↔ w = .b4 := by cases w <;> decide

/-- Every register is read as a word (20_memory.md R29). -/
theorem registerAt_admitsRead (w : Width) : ∀ n < 10, (registerAt n).admitsRead w = (w == .b4) := by
  cases w <;> decide

/-- Every register but the last two, LEDLEN and MASKCUR, is written as a word (20_memory.md R29). -/
theorem registerAt_admitsWrite (w : Width) : ∀ n < 10, (registerAt n).admitsWrite w = (w == .b4 && decide (n < 8)) := by
  cases w <;> decide

/-- The read-only plane is the window of OUT (20_memory.md R30). -/
theorem readOnlyOffset_plane (c : Config) {p : Plane} {a : Nat} (h : p.base ≤ a ∧ a < p.base + 1024) : readOnlyOffset c a ↔ p = .out := by
  unfold readOnlyOffset
  cases p <;> simp only [Plane.base, reduceCtorEq, iff_true, iff_false] at h ⊢ <;> omega

theorem locate_admitsRead_iff (c : Config) (a : Nat) (w : Width) :
    (locate c a).admitsRead w = true ↔
      ¬ (w.bytes ≠ 4 ∧ (a < 0x28 ∨ (0x2000 ≤ a ∧ a < 0x2000 + 4 * c.maxLeds))) ∧ ¬ reservedOffset c a := by
  have hM := c.maxLeds_le
  unfold reservedOffset
  rcases locate_cases c a with ⟨ha, hl⟩ | ⟨p, ha, hl⟩ | ⟨ha, hl⟩ | ⟨ha, hl⟩ | ⟨ha, hl⟩ <;> rw [hl]
  · rw [registerAt_admitsRead w _ (by omega), beq_iff_eq, ← w.bytes_eq_four_iff]
    omega
  · have hp := p.base_bounds
    exact iff_of_true rfl (by omega)
  · rw [Place.admitsRead, beq_iff_eq, ← w.bytes_eq_four_iff]
    omega
  · exact iff_of_true rfl (by omega)
  · exact iff_of_false nofun (by omega)

/-- What can be written is what can be read and is not read only. -/
theorem locate_admitsWrite_iff (c : Config) (a : Nat) (w : Width) :
    (locate c a).admitsWrite w = true ↔ (locate c a).admitsRead w = true ∧ ¬ readOnlyOffset c a := by
  have hM := c.maxLeds_le
  rcases locate_cases c a with ⟨ha, hl⟩ | ⟨p, ha, hl⟩ | ⟨ha, hl⟩ | ⟨ha, hl⟩ | ⟨ha, hl⟩ <;> rw [hl]
  · rw [registerAt_admitsRead w _ (by omega), registerAt_admitsWrite w _ (by omega), Bool.and_eq_true, decide_eq_true_iff]
    refine and_congr_right fun _ => ?_
    unfold readOnlyOffset
    omega
  · rw [Place.admitsWrite_plane, readOnlyOffset_plane c ha]
    exact (and_iff_right rfl).symm
  · refine (and_iff_left ?_).symm
    unfold readOnlyOffset
    omega
  · exact iff_of_false nofun fun h => h.2 (.inr (.inr ha))
  · exact iff_of_false nofun fun h => nomatch h.1

/-- The reads that R93 does not refuse are the admitted ones. -/
theorem readAdmitted_iff_not_refused {c : Config} {off : BitVec 16} {w : Width} :
    readAdmitted c off w = true ↔ ¬ refusedAccess c off.toNat w.bytes := by
  rw [readAdmitted_iff, locate_admitsRead_iff, refusedAccess, not_or, not_or, ne_eq, not_not]

/-- The writes that R93 does not refuse are the admitted ones. -/
theorem writeAdmitted_iff_not_refused {c : Config} {off : BitVec 16} {w : Width} :
    writeAdmitted c off w = true ↔ ¬ refusedAccess c off.toNat w.bytes ∧ ¬ readOnlyOffset c off.toNat := by
  rw [← readAdmitted_iff_not_refused, writeAdmitted_iff, readAdmitted_iff, locate_admitsWrite_iff, and_assoc]

/-! ## The answers -/

/-- The two forms of the response to a refused access (log 5). -/
theorem step_busError_forms {s : State} {rest : List HostOp} {off : BitVec 16} (h : step s = (s.setPending rest).busError off) :
    (s.cfg.busErrorResponse = .endsProgram → step s = .fault (.busError off)) ∧
      (s.cfg.busErrorResponse = .goesOn → step s = .next { s with pending := rest, resp := .error off }) := by
  unfold State.busError at h
  constructor <;> intro hform <;> rw [State.setPending_cfg, hform] at h <;> exact h

theorem exec_keeps_resp {i : Instr} {s u : State} (h : exec i s = .next u) : u.resp = s.resp := by
  obtain ⟨m, row, col, len, code, hshape⟩ := exec_shape i s
  cases hshape.symm.trans h
  rfl

theorem commandCycle_keeps_resp {w : Word} {s u : State} (h : commandCycle w s = .next u) : u.resp = s.resp := by
  cases hd : decode w with
  | ok i => exact exec_keeps_resp (s := s.setCmd w) ((commandCycle_of_ok hd s).symm.trans h)
  | error e =>
    cases (commandCycle_of_error hd s).symm.trans h
    rfl

/-- No effect of a write touches the answer that completes it. -/
theorem State.writePlace_keeps_resp {p : Place} {w : Width} (h : p.admitsWrite w = true) (s : State) (off : BitVec 16) (v : Word) :
    ∃ u, s.writePlace p off w v = .next u ∧ u.resp = s.resp := by
  obtain ⟨u, hu⟩ := State.writePlace_answers h s off v
  refine ⟨u, hu, ?_⟩
  cases p with
  | cmd => exact commandCycle_keeps_resp hu
  | status | arg n | plane q | color =>
    cases hu
    rfl
  | ledlen | maskcur | ledbuf | reserved => cases h

/-- Settles O38: an access is refused if it is not admitted; an admitted read answers its value, an admitted write completes. -/
theorem refusedAccessIsABusErrorWithoutEffect : Obligations.RefusedAccessIsABusErrorWithoutEffect := by
  intro s rest off n v op hp
  refine ⟨fun hrefused => step_busError_forms ?_, fun hop hadm => ?_, fun hop hadm hwritable => ?_⟩
  · rcases hrefused with ⟨rfl, hrefused⟩ | ⟨rfl, hrefused⟩
    · exact step_readRefused hp fun ha => readAdmitted_iff_not_refused.1 ha hrefused
    · exact step_writeRefused hp fun ha => not_or.2 (writeAdmitted_iff_not_refused.1 ha) hrefused
  · subst hop
    exact ⟨_, step_readAdmitted hp (readAdmitted_iff_not_refused.2 hadm)⟩
  · subst hop
    have ha := writeAdmitted_iff_not_refused.2 ⟨hadm, hwritable⟩
    obtain ⟨u, hu, hresp⟩ := State.writePlace_keeps_resp (writeAdmitted_iff.1 ha).2 (s.answered rest .written) off v
    exact ⟨u, (step_writeAdmitted hp ha).trans hu, hresp⟩

end Sys2Proof.Machine
end

section
/-! SUPPORT. The reset input (70_reset_and_hazards.md R106, R107): the values it leaves, and that the draw can give the bytes it leaves
unspecified any contents. -/

namespace Sys2Proof.Machine

/-! ## The reset values and the idle engine (R106) -/

/-- Settles O46: the invariant holds of every reset state. -/
theorem resetHasTheInvariant : Obligations.ResetHasTheInvariant := State.Inv.resetWith _ _ _

/-- Settles O49, by the empty case of `serve`. -/
theorem idleEngineDoesNothing : Obligations.IdleEngineDoesNothing := by
  intro s hp
  simp only [step, State.serve, hp]

/-- With no cell listed the mask planes read as the default masks. -/
theorem State.resetWith_masks (c : Config) (d : List Host.Cell) (k : Nat) {i : Nat} (hi : i < 1024) :
    (State.resetWith c d k).planeByte .andm i = c.maskDefaultAnd i ∧ (State.resetWith c d k).planeByte .orm i = c.maskDefaultOr i := by
  unfold State.planeByte
  rw [State.resetWith_byte]
  simp only [Plane.base]
  rw [unwrittenByte_andm (by omega), unwrittenByte_orm (by omega), Nat.add_sub_cancel_left, Nat.add_sub_cancel_left]
  exact ⟨rfl, rfl⟩

/-- With RESULT OK and ERR clear STATUS reads 0. -/
theorem State.resetWith_statusWord (c : Config) (d : List Host.Cell) (k : Nat) : (State.resetWith c d k).statusWord = 0 := by
  unfold State.statusWord
  rw [State.resetWith_result, State.resetWith_err]
  decide

/-- With the cursor at row 0, column 0, MASKCUR reads 0. -/
theorem State.resetWith_maskcurWord (c : Config) (d : List Host.Cell) (k : Nat) : (State.resetWith c d k).maskcurWord = 0 := by
  unfold State.maskcurWord
  rw [State.resetWith_mcRow, State.resetWith_mcCol]
  decide

/-- The registers that read as words and the mask planes after a reset, whatever the parameters and the draw (R106). -/
theorem State.resetWith_values (c : Config) (d : List Host.Cell) (k : Nat) :
    (∀ n : Fin 6, (State.resetWith c d k).args[n] = 0) ∧ (State.resetWith c d k).statusWord = 0 ∧
    (State.resetWith c d k).maskcurWord = 0 ∧ ∀ i, i < 1024 →
      (State.resetWith c d k).planeByte .andm i = c.maskDefaultAnd i ∧ (State.resetWith c d k).planeByte .orm i = c.maskDefaultOr i :=
  ⟨fun n => Vector.getElem_replicate n.isLt, State.resetWith_statusWord c d k, State.resetWith_maskcurWord c d k,
    fun _ => State.resetWith_masks c d k⟩

/-- Settles O47: in a run and at power-on the state is a `resetWith`, in a run with the list of accesses put back. -/
theorem resetValues : Obligations.ResetValues := by
  constructor
  · intro s rest hp
    obtain ⟨hargs, hstatus, hmaskcur, hmasks⟩ := State.resetWith_values s.cfg (Config.resetDraw (s.resets + 1)) (s.resets + 1)
    exact ⟨_, step_resetPulse hp, rfl, rfl, hargs, rfl, hstatus, rfl, hmaskcur, rfl, rfl, hmasks⟩
  · obtain ⟨hargs, hstatus, hmaskcur, hmasks⟩ := State.resetWith_values Config.chip (Config.resetDraw 0) 0
    exact ⟨hargs, rfl, hstatus, rfl, hmaskcur, hmasks⟩

/-! ## The draw (R107) -/

theorem drawnByte_map {h : Nat → Byte} {l : List Nat} {a : Nat} (ha : a ∈ l) : drawnByte (l.map fun b => (b, h b)) a = h a := by
  induction l with
  | nil => cases ha
  | cons b rest ih =>
    by_cases hb : b = a
    · simp [drawnByte, hb]
    · simp [drawnByte, hb, ih (List.mem_of_ne_of_mem (Ne.symm hb) ha)]

/-- The draw that gives every offset of the 64 KiB window its byte of `h`. -/
def drawOf (h : Nat → Byte) : List Host.Cell := (List.range (2 ^ 16)).map fun a => (a, h a)

/-- What a reset leaves at an offset whose reset value is unspecified. -/
theorem State.resetWith_drawOf_byte (c : Config) (h : Nat → Byte) (n : Nat) {a : Nat} (ha : a < 2 ^ 16)
    (hmask : ¬ (0x0800 ≤ a ∧ a < 0x1000)) (htop : ¬ (0x2000 ≤ a ∧ a < 0x4000 ∧ a % 4 = 3)) :
    (State.resetWith c (drawOf h) n).byte a = h a := by
  rw [State.resetWith_byte, unwrittenByte_drawn hmask htop]
  exact drawnByte_map (List.mem_range.2 ha)

/-- The contents that have byte `i` of FB from `f i`, of OUT from `f (1024 + i)`, of the LED buffer from `f (2048 + i)`, and the colours
from `g`. -/
def contentsOf (f : Nat → Byte) (g : Nat → Color) (a : Nat) : Byte :=
  if a < 0x0800 then f (a - 0x0400)
  else if a < 0x2000 then f (1024 + (a - 0x1000))
  else if a < 0x4000 then colorByte (g ((a - 0x2000) / 4)) ((a - 0x2000) % 4)
  else f (2048 + (a - 0x4000))

theorem contentsOf_fb (f : Nat → Byte) (g : Nat → Color) {i : Nat} (hi : i < 1024) : contentsOf f g (0x0400 + i) = f i := by
  unfold contentsOf
  rw [if_pos (by omega), Nat.add_sub_cancel_left]

theorem contentsOf_out (f : Nat → Byte) (g : Nat → Color) {i : Nat} (hi : i < 1024) : contentsOf f g (0x1000 + i) = f (1024 + i) := by
  unfold contentsOf
  rw [if_neg (by omega), if_pos (by omega), Nat.add_sub_cancel_left]

theorem contentsOf_color (f : Nat → Byte) (g : Nat → Color) {j b : Nat} (hj : j < 2047) (hb : b < 4) :
    contentsOf f g (0x2000 + 4 * j + b) = colorByte (g j) b := by
  have hentry : (0x2000 + 4 * j + b - 0x2000) / 4 = j := by omega
  have hbyte : (0x2000 + 4 * j + b - 0x2000) % 4 = b := by omega
  unfold contentsOf
  rw [if_neg (by omega), if_neg (by omega), if_pos (by omega), hentry, hbyte]

theorem contentsOf_led (f : Nat → Byte) (g : Nat → Color) (k : Nat) : contentsOf f g (0x4000 + k) = f (2048 + k) := by
  unfold contentsOf
  rw [if_neg (by omega), if_neg (by omega), if_neg (by omega), Nat.add_sub_cancel_left]

theorem State.color_eq_of_bytes {s : State} {j : Nat} {v : Color} (h : ∀ b, b < 3 → s.byte (0x2000 + 4 * j + b) = colorByte v b) :
    s.color j = v :=
  (congrArg₂ _ (congrArg₂ _ (h 2 (by decide)) (h 1 (by decide))) (h 0 (by decide))).trans (color_of_bytes v)

/-- A byte read in a byte array answers the byte. -/
theorem step_read_byte {s : State} {off : BitVec 16} {rest : List HostOp} (harray : (locate s.cfg off.toNat).isByteArray = true)
    (h : s.pending = .read off .b1 :: rest) : step s = .next (s.answered rest (.data ((s.byte off.toNat).setWidth 32))) := by
  have hadm : readAdmitted s.cfg off .b1 = true :=
    readAdmitted_iff.2 ⟨Nat.mod_one _, Place.admitsRead_of_isByteArray harray .b1⟩
  rw [step_readAdmitted h hadm, State.readValue_byteArray harray]
  rfl

/-- Settles O48: the draw lists every offset of the window with its contents; the reads are those of the byte arrays and of O42. -/
theorem unspecifiedBytesAreFree : Obligations.UnspecifiedBytesAreFree := by
  intro c n f g
  have hM := c.maxLeds_le
  have hbyte := fun a => State.resetWith_drawOf_byte c (contentsOf f g) n (a := a)
  refine ⟨drawOf (contentsOf f g), fun i hi => ⟨?_, ?_⟩, fun j hj => ?_, fun k hk => ?_, fun s off rest hp hoff => ?_,
    fun s j rest hj => (colourWindowAccesses s rest j 0 hj).1⟩
  · exact (hbyte (0x0400 + i) (by omega) (by omega) (by omega)).trans (contentsOf_fb f g hi)
  · exact (hbyte (0x1000 + i) (by omega) (by omega) (by omega)).trans (contentsOf_out f g hi)
  · exact State.color_eq_of_bytes fun b hb =>
      (hbyte (0x2000 + 4 * j + b) (by omega) (by omega) (by omega)).trans (contentsOf_color f g (by omega) (by omega))
  · exact (hbyte (0x4000 + k) (by omega) (by omega) (by omega)).trans (contentsOf_led f g k)
  · exact step_read_byte ((locate_isByteArray_iff _ _).2 hoff) hp

end Sys2Proof.Machine
end

section
/-! SUPPORT. OUT, the LED buffer and LEDLEN, which the host cannot write (70_reset_and_hazards.md R110, R111): every command but COMPOSITE and
ENCODE keeps them, and so does every other step but a reset pulse. -/

namespace Sys2Proof.Machine

/-- `t` has the LEDLEN of `s`, its bytes of OUT, and its bytes from the LED buffer on. -/
def State.keepsOutputs (s t : State) : Prop :=
  t.ledlen = s.ledlen ∧ ∀ a, (0x1000 ≤ a ∧ a < 0x1400) ∨ 0x4000 ≤ a → t.byte a = s.byte a

theorem State.keepsOutputs.refl (s : State) : s.keepsOutputs s := ⟨rfl, fun _ _ => rfl⟩

theorem State.keepsOutputs.planeByte_out {s t : State} (h : s.keepsOutputs t) {i : Nat} (hi : i < 1024) :
    t.planeByte .out i = s.planeByte .out i :=
  h.2 _ (.inl (by simp only [Plane.base]; omega))

theorem State.keepsOutputs.ledByte {s t : State} (h : s.keepsOutputs t) (k : Nat) : t.ledByte k = s.ledByte k :=
  h.2 _ (.inr (Nat.le_add_right _ _))

theorem Plane.end_le_out {p : Plane} (hp : p ≠ .out) : p.base + 1024 ≤ 0x1000 := by
  cases p with
  | out => exact absurd rfl hp
  | _ => decide

theorem targetPlane_ne_out (t : Target) : targetPlane t ≠ .out := by cases t <;> decide

/-! ## The operations -/

section
variable {r s : State} (h : r.keepsOutputs s)
include h

theorem State.keepsOutputs.finish (code : ResultCode) : r.keepsOutputs (s.finish code) := h

theorem State.keepsOutputs.setCursor (row col : Nat) : r.keepsOutputs (s.setCursor row col) := h

/-- A store below OUT, or between OUT and the LED buffer. -/
theorem State.keepsOutputs.store {lo n : Nat} (f : Nat → Byte)
    (hrange : ∀ a, lo ≤ a → a < lo + n → a < 0x1000 ∨ (0x1400 ≤ a ∧ a < 0x4000)) : r.keepsOutputs (s.store lo n f) := by
  obtain ⟨hlen, hbytes⟩ := h
  refine ⟨hlen, fun a ha => ?_⟩
  rw [State.byte_store, if_neg fun hin => by have hout := hrange a hin.1 hin.2; omega]
  exact hbytes a ha

theorem State.keepsOutputs.storePlane {p : Plane} (hp : p ≠ .out) (f : Nat → Byte) : r.keepsOutputs (s.storePlane p f) := by
  have hend := Plane.end_le_out hp
  exact h.store _ fun a _ ha => by omega

theorem State.keepsOutputs.setPlaneByte {p : Plane} (hp : p ≠ .out) {i : Nat} (hi : i < 1024) (v : Byte) :
    r.keepsOutputs (s.setPlaneByte p i v) := by
  have hend := Plane.end_le_out hp
  exact h.store _ fun a _ ha => by omega

theorem State.keepsOutputs.storeRect {p : Plane} (hp : p ≠ .out) {s0 s1 x0 x1 : Nat} (hs : s1 ≤ 7) (hx : x1 ≤ 127)
    (g : Nat → Nat → Byte) : r.keepsOutputs (s.storeRect p s0 s1 x0 x1 g) := by
  have hend := Plane.end_le_out hp
  exact h.store _ fun a _ ha => by omega

theorem State.keepsOutputs.storeColors {lo n : Nat} (hn : lo + n ≤ s.cfg.maxLeds) (g : Nat → Color) :
    r.keepsOutputs (s.storeColors lo n g) := by
  have hend := colorEnd_le_ledBase s.cfg
  refine h.store _ fun a _ ha => ?_
  unfold colorBase ledBase at *
  omega

/-- An aligned access to a plane's window ends inside it. -/
theorem State.keepsOutputs.writeBytes {p : Plane} (hp : p ≠ .out) {a : Nat} {w : Width} (hin : p.base ≤ a ∧ a < p.base + 1024)
    (haligned : a % w.bytes = 0) (v : Word) : r.keepsOutputs (s.writeBytes a w v) := by
  have hend := Plane.end_le_out hp
  refine h.store _ fun b hb hbw => ?_
  have hlast : a + (b - a) < 0x1000 := Width.add_lt_of_aligned haligned rfl (by omega) (by omega)
  omega

/-! ## The commands -/

theorem State.keepsOutputs.drawRect (t : Target) (op : Byte → Byte → Byte) : r.keepsOutputs (s.drawRect t op) := by
  cases hr : s.rectArgs with
  | none => exact State.drawRect_none hr ▸ h.finish .rejected
  | some rect =>
    obtain ⟨-, hx, -, hy⟩ := State.rectArgs_bounds hr
    exact State.drawRect_some hr ▸ (h.storeRect (targetPlane_ne_out t) (by omega) hx _).finish .ok

theorem State.keepsOutputs.copyRect (t : Target) : r.keepsOutputs (s.copyRect t) := by
  cases hw : s.copyArgs with
  | none => exact State.copyRect_none hw ▸ h.finish .rejected
  | some w =>
    have hb := State.copyArgs_bounds hw
    exact State.copyRect_some hw ▸ (h.storeRect (targetPlane_ne_out t) (by omega) (by omega) _).finish .ok

theorem State.keepsOutputs.drawGlyph (t : Target) (size ch : Nat) : r.keepsOutputs (s.drawGlyph t size ch) := by
  by_cases hf : glyphFits s.cfg size (s.signedArg 0) (s.signedArg 1) = true
  · have hfit := glyphFits_iff.1 hf
    have hw := s.cfg.glyphWidth_bounds size
    exact State.drawGlyph_fits hf ▸ (h.storeRect (targetPlane_ne_out t) (by omega) (by omega) _).finish .ok
  · exact State.drawGlyph_not hf ▸ h.finish .rejected

theorem State.keepsOutputs.loadMasks : r.keepsOutputs s.loadMasks := (h.storePlane (by decide) _).storePlane (by decide) _

theorem State.keepsOutputs.markPixel (hgrid : s.mcRow < 64 ∧ s.mcCol < 128) (ch : Nat) : r.keepsOutputs (s.markPixel ch) := by
  have hi : s.cursorIndex < 1024 := by
    unfold State.cursorIndex
    omega
  unfold State.markPixel
  split_ifs
  · exact h.setPlaneByte (by decide) hi _
  · exact h.setPlaneByte (by decide) hi _
  · exact h

theorem State.keepsOutputs.maskChar (ch : Nat) : r.keepsOutputs (s.maskChar ch) := by
  unfold State.maskChar
  split_ifs with hend hgrid
  · exact h.setCursor _ _
  · exact (h.markPixel hgrid ch).setCursor _ _
  · exact h.setCursor _ _

theorem State.keepsOutputs.storeColor12 : r.keepsOutputs s.storeColor12 := by
  rcases Nat.lt_or_ge (s.unsignedArg 0) s.cfg.maxLeds with hin | hout
  · exact State.storeColor12_ok hin ▸ (h.storeColors hin _).finish .ok
  · exact State.storeColor12_errRange hout ▸ h.finish .errRange

end

theorem exec_keepsOutputs {i : Instr} (hcomposite : i ≠ .composite) (hencode : i ≠ .encode) (s : State) :
    ∃ u, exec i s = .next u ∧ s.keepsOutputs u := by
  have h := State.keepsOutputs.refl s
  cases i with
  | nop => exact ⟨_, rfl, h.finish .ok⟩
  | fill t => exact ⟨_, rfl, h.drawRect t _⟩
  | erase t => exact ⟨_, rfl, h.drawRect t _⟩
  | copy t => exact ⟨_, rfl, h.copyRect t⟩
  | glyph t size c => exact ⟨_, rfl, h.drawGlyph t size c⟩
  | composite => exact absurd rfl hcomposite
  | maskinit => exact ⟨_, rfl, (h.loadMasks.setCursor 0 0).finish .ok⟩
  | maskchar ch => exact ⟨_, rfl, (h.maskChar ch).finish .ok⟩
  | color12 => exact ⟨_, rfl, h.storeColor12⟩
  | encode => exact absurd rfl hencode

/-! ## Every step -/

/-- A CMD write changes the outputs only by the word of COMPOSITE or of ENCODE. -/
theorem commandCycle_outputs_cases {w : Word} {s t : State} (hw : commandCycle w s = .next t) :
    s.keepsOutputs t ∨ decode w = .ok .composite ∨ decode w = .ok .encode := by
  cases hd : decode w with
  | error e =>
    cases (commandCycle_illegal hd s).symm.trans hw
    exact .inl (State.keepsOutputs.refl s)
  | ok i =>
    by_cases hcomposite : i = .composite
    · exact .inr (.inl (congrArg Except.ok hcomposite))
    by_cases hencode : i = .encode
    · exact .inr (.inr (congrArg Except.ok hencode))
    obtain ⟨u, hu, hkeeps⟩ := exec_keepsOutputs hcomposite hencode (s.setCmd w)
    cases ((commandCycle_of_ok hd s).trans hu).symm.trans hw
    exact .inl hkeeps

/-- CMD is one word of the map, and a write to it has 32 bits (20_memory.md R27, R29). -/
theorem writeAdmitted_cmd {c : Config} {off : BitVec 16} {w : Width} {v : Word} (hl : locate c off.toNat = .cmd)
    (ha : writeAdmitted c off w = true) : HostOp.write off w v = commandWrite v := by
  obtain ⟨haligned, hadmits⟩ := writeAdmitted_iff.1 ha
  obtain rfl : w = .b4 := Place.wide_of_admitsWrite (hl ▸ hadmits) rfl
  have hindex : ∀ n < 10, registerAt n = .cmd → n = 0 := by decide
  rcases locate_cases c off.toNat with ⟨hreg, h⟩ | ⟨p, -, h⟩ | ⟨-, h⟩ | ⟨-, h⟩ | ⟨-, h⟩
  case inl =>
    have hword := hindex _ (by omega) (h.symm.trans hl)
    have hfour : off.toNat % 4 = 0 := haligned
    obtain rfl : off = 0x0000 := BitVec.eq_of_toNat_eq (show off.toNat = 0 by omega)
    rfl
  all_goals cases h.symm.trans hl

/-- A host write changes the outputs only if it is a CMD write. -/
theorem hostWrite_outputs_cases {s t : State} {off : BitVec 16} {w : Width} {v : Word} (hw : s.hostWrite off w v = .next t) :
    s.keepsOutputs t ∨ (HostOp.write off w v = commandWrite v ∧ commandCycle v (s.respond .written) = .next t) := by
  have h : s.keepsOutputs (s.respond .written) := State.keepsOutputs.refl s
  rcases State.hostWrite_cases hw with
    rfl | ⟨ha, ⟨hl, hc⟩ | ⟨-, rfl⟩ | ⟨n, -, rfl⟩ | ⟨p, hl, hp, rfl⟩ | ⟨hl, rfl⟩⟩
  · exact .inl h
  · exact .inr ⟨writeAdmitted_cmd hl ha, hc⟩
  · exact .inl h
  · exact .inl h
  · exact .inl (h.writeBytes hp (bounds_of_locate_plane hl) (writeAdmitted_iff.1 ha).1 v)
  · have hwin := bounds_of_locate_color hl
    refine .inl (h.storeColors ?_ _)
    simp only [State.respond_cfg, colorBase]
    omega

/-- What a step that answers a next state can do to the outputs: nothing, a reset, a COMPOSITE, or an ENCODE. -/
theorem step_outputs_cases {s t : State} (hstep : step s = .next t) :
    s.keepsOutputs t ∨ (∃ rest, s.pending = .reset :: rest) ∨
    (∃ rest, s.pending = commandWrite 0x00000005 :: rest ∧ exec .composite (s.afterCommandWrite rest 0x00000005) = .next t) ∨
    (∃ rest, s.pending = commandWrite 0x00000009 :: rest ∧ exec .encode (s.afterCommandWrite rest 0x00000009) = .next t) := by
  rcases step_cases hstep with ⟨-, rfl⟩ | ⟨rest, off, w, r, -, rfl⟩ | ⟨rest, hp, -⟩ | ⟨rest, off, w, v, hp, hw⟩
  · exact .inl (State.keepsOutputs.refl _)
  · exact .inl (State.keepsOutputs.refl _)
  · exact .inr (.inl ⟨rest, hp⟩)
  · rcases hostWrite_outputs_cases hw with hkeeps | ⟨hop, hcycle⟩
    · exact .inl hkeeps
    rcases commandCycle_outputs_cases hcycle with hkeeps | hd | hd
    · exact .inl hkeeps
    · obtain ⟨-, rfl⟩ := decode_eq_ok_iff.1 hd
      exact .inr (.inr (.inl ⟨rest, hop ▸ hp, (commandCycle_of_ok hd _).symm.trans hcycle⟩))
    · obtain ⟨-, rfl⟩ := decode_eq_ok_iff.1 hd
      exact .inr (.inr (.inr ⟨rest, hop ▸ hp, (commandCycle_of_ok hd _).symm.trans hcycle⟩))

/-! ## The statements -/

/-- ENCODE stores to colours and to the LED buffer, which lie above OUT (43_ws2812.md R89). -/
theorem exec_encode_keeps_out {s t : State} (h : exec .encode s = .next t) {i : Nat} (hi : i < 1024) :
    t.planeByte .out i = s.planeByte .out i := by
  obtain ⟨u, hu, -, hbytes, -⟩ := encodeFrame s
  cases hu.symm.trans h
  exact hbytes _ (by simp only [Plane.base, ledBase]; omega) (by simp only [Plane.base, colorBase]; omega)

/-- COMPOSITE stores to OUT only, which lies below the LED buffer (42_mask.md R74). -/
theorem exec_composite_keeps_ledFrame {s t : State} (h : exec .composite s = .next t) :
    t.ledlen = s.ledlen ∧ ∀ k, t.ledByte k = s.ledByte k := by
  cases h
  exact ⟨rfl, fun k => s.byte_compose_outside (by simp only [Plane.base, ledBase]; omega)⟩

/-- Settles O52: a step that changes OUT is neither one that keeps the outputs nor an ENCODE. -/
theorem outChangesOnlyAtComposite : Obligations.OutChangesOnlyAtComposite := by
  rintro s t hstep ⟨i, hi, hchanged⟩
  rcases step_outputs_cases hstep with hkeeps | ⟨rest, hp⟩ | ⟨rest, hp, -⟩ | ⟨rest, hp, hexec⟩
  · exact absurd (hkeeps.planeByte_out hi) hchanged
  · exact ⟨_, rest, hp, .inl rfl⟩
  · exact ⟨_, rest, hp, .inr rfl⟩
  · exact absurd (exec_encode_keeps_out hexec hi) hchanged

/-- Settles O53: a step that changes the LED frame is neither one that keeps the outputs nor a COMPOSITE, and an ENCODE that fails is a finish
and nothing else. -/
theorem ledFrameChangesOnlyAtEncode : Obligations.LedFrameChangesOnlyAtEncode := by
  intro s t hstep hchanged
  have hkept : ¬ (t.ledlen = s.ledlen ∧ ∀ k, t.ledByte k = s.ledByte k) := by
    rintro ⟨hlen, hbytes⟩
    rcases hchanged with hne | ⟨k, -, hne⟩
    · exact hne hlen
    · exact hne (hbytes k)
  rcases step_outputs_cases hstep with hkeeps | ⟨rest, hp⟩ | ⟨rest, hp, hexec⟩ | ⟨rest, hp, hexec⟩
  · exact absurd ⟨hkeeps.1, hkeeps.ledByte⟩ hkept
  · exact ⟨_, rest, hp, .inl rfl⟩
  · exact absurd (exec_composite_keeps_ledFrame hexec) hkept
  · refine ⟨_, rest, hp, .inr ⟨rfl, ?_⟩⟩
    by_contra hfailed
    obtain ⟨u, hu, hfinish⟩ := commandNotOkChangesStatusOnly .encode (s.afterCommandWrite rest 0x00000009)
    cases hu.symm.trans hexec
    rw [hfinish hfailed] at hkept
    exact hkept ⟨rfl, fun _ => rfl⟩

end Sys2Proof.Machine
end

section
/-! SUPPORT. FILL and ERASE one after the other (95_test_vectors.md L1-1, L1-2, 90_conflicts.md C1), and the words of every command that the
vectors and the encoding tables write out (95_test_vectors.md 2.1). -/

namespace Sys2Proof.Machine

/-- Drawing a rectangle keeps the operands, so the next drawing has the same rectangle. -/
theorem State.rectArgs_drawRect (s : State) (t : Target) (op : Byte → Byte → Byte) : (s.drawRect t op).rectArgs = s.rectArgs := by
  obtain ⟨honly, -⟩ := s.drawRect_frame t op
  unfold State.onlyMemoryAndStatus at honly
  have hargs : (s.drawRect t op).args = s.args := by rw [honly]
  exact State.rectArgs_congr hargs

/-- Of two drawings of one rectangle the second decides its pixels, and no other pixel changes. -/
theorem State.pixel_drawRect_drawRect {t : Target} {op₁ op₂ : Byte → Byte → Byte} {on₁ on₂ : Bool} {s : State} {r : Rect}
    (hr : s.rectArgs = some r)
    (hop₁ : ∀ old m : Byte, ∀ b, b < 8 → (op₁ old m).getLsbD b = if m.getLsbD b then on₁ else old.getLsbD b)
    (hop₂ : ∀ old m : Byte, ∀ b, b < 8 → (op₂ old m).getLsbD b = if m.getLsbD b then on₂ else old.getLsbD b) (p : Plane) {x y : Nat}
    (hx : x < 128) (hy : y < 64) :
    ((s.drawRect t op₁).drawRect t op₂).pixel p x y =
      if p = targetPlane t ∧ (r.x0 ≤ x ∧ x ≤ r.x1) ∧ r.y0 ≤ y ∧ y ≤ r.y1 then on₂ else s.pixel p x y := by
  have hr₂ : (s.drawRect t op₁).rectArgs = some r := (s.rectArgs_drawRect t op₁).trans hr
  rw [State.pixel_drawRect hr₂ hop₂ p hx hy, State.pixel_drawRect hr hop₁ p hx hy]
  split_ifs <;> rfl

/-- Settles O17: ERASE after FILL makes the pixels of the rectangle clear, FILL after ERASE makes them set, whatever the first one left. -/
theorem fillThenEraseAndEraseThenFill : Obligations.FillThenEraseAndEraseThenFill := by
  intro t s r hr
  have hfill : ∀ old m : Byte, ∀ b, b < 8 → (old ||| m).getLsbD b = if m.getLsbD b then true else old.getLsbD b :=
    fun old m b _ => getLsbD_fill old m b
  have herase : ∀ old m : Byte, ∀ b, b < 8 → (old &&& ~~~m).getLsbD b = if m.getLsbD b then false else old.getLsbD b :=
    fun old m _ hb => getLsbD_erase old m hb
  exact ⟨⟨_, rfl, fun p _ _ hx hy => State.pixel_drawRect_drawRect hr hfill herase p hx hy⟩,
    ⟨_, rfl, fun p _ _ hx hy => State.pixel_drawRect_drawRect hr herase hfill p hx hy⟩⟩

end Sys2Proof.Machine

namespace Sys2Proof

/-- Settles O4: the ten commands' words are those of the encoder, and each illegal word fails the decoder's check that it is listed for. -/
theorem specWordsDecodeAsListed : Obligations.SpecWordsDecodeAsListed :=
  ⟨decode_encode (i := .nop) rfl, decode_encode (i := .fill .andm) rfl, decode_encode (i := .erase .orm) rfl,
    decode_encode (i := .copy .fb) rfl, decode_encode (i := .glyph .andm 2 65) rfl, decode_encode (i := .composite) rfl,
    decode_encode (i := .maskinit) rfl, decode_encode (i := .maskchar 0x2B) rfl, decode_encode (i := .color12) rfl,
    decode_encode (i := .encode) rfl, by decide, by decide, decode_reservedOpcode (by decide), by decide, by decide⟩

end Sys2Proof
end
